-- ==== Sys2Proof/Word.lean ====
section
/-! DEFINITION. The word types of the SAVE block (spec/00_scope.md R7): all are bit vectors, because the spec slices,
concatenates and compares them as bits. -/

namespace Sys2Proof

/-- A byte operand, `u8` (R7, R71). -/
abbrev Byte := BitVec 8

/-- A 32-bit word: a register, a parameter cell, a SAMPLE_RAM word (R56). -/
abbrev Word := BitVec 32

/-- `f32`: an IEEE 754 binary32 value held as its 32-bit pattern (R7). -/
abbrev F32 := BitVec 32

/-- A 64-bit command word (R70). -/
abbrev Command := BitVec 64

/-- A 64-bit response word (R72). -/
abbrev Response := BitVec 64

end Sys2Proof
end

