-- ==== Sys2Proof/Syntax.lean ====
section
/-! DEFINITION. The commands of the SAVE block: one constructor per row of spec/opcode_table.json. Only the fields a row
uses are kept; the ignored ones (spec/30_encoding.md R71, R76) are dropped by the decoder. -/

namespace Sys2Proof

/-- One command (R70 to R75). -/
inductive Instr where
  /-- NOP, OP 0x00 (R166). -/
  | nop
  /-- EVENT_NOTE_OFF: status 0x80; `data2` is the release velocity, which the command ignores (R165). -/
  | eventNoteOff (data1 data2 : Byte)
  /-- EVENT_NOTE_ON_V0: status 0x90 with `data2` = 0 (R165). -/
  | eventNoteOnV0 (data1 : Byte)
  /-- EVENT_NOTE_ON: status 0x90 with `data2` ≠ 0 (R165). -/
  | eventNoteOn (data1 data2 : Byte)
  /-- EVENT_IGNORED: any other status byte (R165). -/
  | eventIgnored (status data1 data2 : Byte)
  /-- NOTE_ON, OP 0x02 (R92). -/
  | noteOn (note velocity : Byte)
  /-- NOTE_OFF, OP 0x03 (R93). -/
  | noteOff (note : Byte)
  /-- PSET, OP 0x04 (R141). -/
  | pset (index : Byte) (value : F32)
  /-- PGET, OP 0x05 (R142). -/
  | pget (index : Byte)
  /-- RENDER, OP 0x06: channel count `C` and sample count `N` = {F2, F3} (R150). -/
  | render (channels : Byte) (samples : BitVec 16)
  /-- CWR, OP 0x07 (R167). -/
  | cwr (reg : Byte) (value : Word)
  /-- CRD, OP 0x08 (R168). -/
  | crd (reg : Byte)
  /-- VRD, OP 0x09 (R169). -/
  | vrd (slot sel : Byte)
  /-- ILLEGAL: a reserved opcode, 0x0A to 0xFF (R75). -/
  | illegal (op : Byte)
  deriving DecidableEq, Repr

end Sys2Proof
end

