-- ==== Sys2Proof/WellFormed.lean ====
section
/-! DEFINITION. Which terms of `Instr` stand for a command word: the conditions that select an EVENT row
(spec/30_encoding.md R74) and the reserved opcodes (R75). -/

namespace Sys2Proof

/-- The fields of `i` select `i`'s own row of the opcode table. -/
def Instr.wellFormed (i : Instr) : Bool :=
  match i with
  | .eventNoteOn _ data2 => data2 != 0x00#8
  | .eventIgnored status _ _ => status != 0x80#8 && status != 0x90#8
  | .illegal op => decide (0x0A ≤ op.toNat)
  | .nop => true
  | .eventNoteOff _ _ => true
  | .eventNoteOnV0 _ => true
  | .noteOn _ _ => true
  | .noteOff _ => true
  | .pset _ _ => true
  | .pget _ => true
  | .render _ _ => true
  | .cwr _ _ => true
  | .crd _ => true
  | .vrd _ _ => true

end Sys2Proof
end

