-- ==== Sys2Proof/Decode.lean ====
section
/-! DEFINITION. The decoder and the encoder of the 64-bit command word (spec/30_encoding.md R70 to R79). The decoder is
total: every 64-bit word is a command, a reserved opcode being ILLEGAL (R75, R79), so it refuses nothing. -/

namespace Sys2Proof

/-- `OP`, bits 63:56 (R70). -/
def opField (w : Command) : Byte := w.extractLsb' 56 8

/-- `F1`, bits 55:48 (R70). -/
def f1Field (w : Command) : Byte := w.extractLsb' 48 8

/-- `F2`, bits 47:40 (R70). -/
def f2Field (w : Command) : Byte := w.extractLsb' 40 8

/-- `F3`, bits 39:32 (R70). -/
def f3Field (w : Command) : Byte := w.extractLsb' 32 8

/-- `P`, bits 31:0 (R70). -/
def payloadField (w : Command) : Word := w.extractLsb' 0 32

/-- EVENT's four forms, first match wins (R74). -/
def decodeEvent (status data1 data2 : Byte) : Instr :=
  if status = 0x80#8 then .eventNoteOff data1 data2
  else if status = 0x90#8 then
    if data2 = 0x00#8 then .eventNoteOnV0 data1 else .eventNoteOn data1 data2
  else .eventIgnored status data1 data2

/-- The command a word encodes (R71, R73, R79). -/
def decode (w : Command) : Instr :=
  if opField w = 0x00#8 then .nop
  else if opField w = 0x01#8 then decodeEvent (f1Field w) (f2Field w) (f3Field w)
  else if opField w = 0x02#8 then .noteOn (f2Field w) (f3Field w)
  else if opField w = 0x03#8 then .noteOff (f2Field w)
  else if opField w = 0x04#8 then .pset (f3Field w) (payloadField w)
  else if opField w = 0x05#8 then .pget (f3Field w)
  else if opField w = 0x06#8 then .render (f1Field w) (f2Field w ++ f3Field w)
  else if opField w = 0x07#8 then .cwr (f3Field w) (payloadField w)
  else if opField w = 0x08#8 then .crd (f3Field w)
  else if opField w = 0x09#8 then .vrd (f3Field w) (f2Field w)
  else .illegal (opField w)

/-- The host's question: a command is one 64-bit word, so bit k of the table is bit k of the word, and the bits above
`nbits` are 0 because `w` has none there. -/
def decodeTableWord (nbits w : Nat) : Option Instr :=
  some (decode (BitVec.ofNat 64 (w % 2 ^ nbits)))

/-- A command word from its five fields (R70). -/
def assemble (op f1 f2 f3 : Byte) (payload : Word) : Command := op ++ f1 ++ f2 ++ f3 ++ payload

/-- The opcode byte of a command (R73). -/
def Instr.opcode (i : Instr) : Byte :=
  match i with
  | .nop => 0x00#8
  | .eventNoteOff _ _ => 0x01#8
  | .eventNoteOnV0 _ => 0x01#8
  | .eventNoteOn _ _ => 0x01#8
  | .eventIgnored _ _ _ => 0x01#8
  | .noteOn _ _ => 0x02#8
  | .noteOff _ => 0x03#8
  | .pset _ _ => 0x04#8
  | .pget _ => 0x05#8
  | .render _ _ => 0x06#8
  | .cwr _ _ => 0x07#8
  | .crd _ => 0x08#8
  | .vrd _ _ => 0x09#8
  | .illegal op => op

/-- The word the assembler writes for a command, ignored fields 0 (R80). -/
def encode (i : Instr) : Command :=
  match i with
  | .nop => assemble 0x00#8 0#8 0#8 0#8 0#32
  | .eventNoteOff data1 data2 => assemble 0x01#8 0x80#8 data1 data2 0#32
  | .eventNoteOnV0 data1 => assemble 0x01#8 0x90#8 data1 0x00#8 0#32
  | .eventNoteOn data1 data2 => assemble 0x01#8 0x90#8 data1 data2 0#32
  | .eventIgnored status data1 data2 => assemble 0x01#8 status data1 data2 0#32
  | .noteOn note velocity => assemble 0x02#8 0#8 note velocity 0#32
  | .noteOff note => assemble 0x03#8 0#8 note 0#8 0#32
  | .pset index value => assemble 0x04#8 0#8 0#8 index value
  | .pget index => assemble 0x05#8 0#8 0#8 index 0#32
  | .render channels samples =>
    assemble 0x06#8 channels (samples.extractLsb' 8 8) (samples.extractLsb' 0 8) 0#32
  | .cwr reg value => assemble 0x07#8 0#8 0#8 reg value
  | .crd reg => assemble 0x08#8 0#8 0#8 reg 0#32
  | .vrd slot sel => assemble 0x09#8 0#8 sel slot 0#32
  | .illegal op => assemble op 0#8 0#8 0#8 0#32

/-- `(word & mask) == match`: a word belongs to a row's pattern (R79). -/
def hits (w mask pattern : Command) : Bool := w &&& mask == pattern

/-- The rows of opcode_table.json in priority order, as (mask, match, mnemonic) (R79). -/
def opcodeRows : List (Command × Command × String) :=
  [ (0xFF00000000000000#64, 0x0000000000000000#64, "NOP"),
    (0xFFFF000000000000#64, 0x0180000000000000#64, "EVENT_NOTE_OFF"),
    (0xFFFF00FF00000000#64, 0x0190000000000000#64, "EVENT_NOTE_ON_V0"),
    (0xFFFF000000000000#64, 0x0190000000000000#64, "EVENT_NOTE_ON"),
    (0xFF00000000000000#64, 0x0100000000000000#64, "EVENT_IGNORED"),
    (0xFF00000000000000#64, 0x0200000000000000#64, "NOTE_ON"),
    (0xFF00000000000000#64, 0x0300000000000000#64, "NOTE_OFF"),
    (0xFF00000000000000#64, 0x0400000000000000#64, "PSET"),
    (0xFF00000000000000#64, 0x0500000000000000#64, "PGET"),
    (0xFF00000000000000#64, 0x0600000000000000#64, "RENDER") ] ++
  [ (0xFF00000000000000#64, 0x0700000000000000#64, "CWR"),
    (0xFF00000000000000#64, 0x0800000000000000#64, "CRD"),
    (0xFF00000000000000#64, 0x0900000000000000#64, "VRD"),
    (0x0000000000000000#64, 0x0000000000000000#64, "ILLEGAL") ]

/-- The index in `opcodeRows` of the first row a word hits (R79). -/
def firstRow (w : Command) : Nat := opcodeRows.findIdx (fun row => hits w row.1 row.2.1)

/-- The row of `opcodeRows` a command stands for. -/
def Instr.row (i : Instr) : Nat :=
  match i with
  | .nop => 0
  | .eventNoteOff _ _ => 1
  | .eventNoteOnV0 _ => 2
  | .eventNoteOn _ _ => 3
  | .eventIgnored _ _ _ => 4
  | .noteOn _ _ => 5
  | .noteOff _ => 6
  | .pset _ _ => 7
  | .pget _ => 8
  | .render _ _ => 9
  | .cwr _ _ => 10
  | .crd _ => 11
  | .vrd _ _ => 12
  | .illegal _ => 13

/-- The bits of a command word that its opcode inspects: `OP`, and the fields R71 does not mark ignored. -/
def usedFields (op : Byte) : Command :=
  if op = 0x00#8 then 0xFF00000000000000#64
  else if op = 0x01#8 then 0xFFFFFFFF00000000#64
  else if op = 0x02#8 then 0xFF00FFFF00000000#64
  else if op = 0x03#8 then 0xFF00FF0000000000#64
  else if op = 0x04#8 then 0xFF0000FFFFFFFFFF#64
  else if op = 0x05#8 then 0xFF0000FF00000000#64
  else if op = 0x06#8 then 0xFFFFFFFF00000000#64
  else if op = 0x07#8 then 0xFF0000FFFFFFFFFF#64
  else if op = 0x08#8 then 0xFF0000FF00000000#64
  else if op = 0x09#8 then 0xFF00FFFF00000000#64
  else 0xFF00000000000000#64

/-- The command that two 32-bit halves carry, the half with bits 63:32 first; the block acts on the whole (R57). -/
def commandOfHalves (first second : Word) : Command := first ++ second

/-- The 32-bit halves of a response in the order a host transport carries them: bits 63:32 go first (R57). -/
def responseHalves (r : Response) : List Word := [r.extractLsb' 32 32, r.extractLsb' 0 32]

/-- Byte `j` of a word as a host bridge presents it, little-endian (R56). -/
def bridgeByte (v : Word) (j : Nat) : Byte := v.extractLsb' (8 * j) 8

/-- The word a host bridge assembles from its four bytes (R56). -/
def wordOfBridgeBytes (b0 b1 b2 b3 : Byte) : Word := b3 ++ b2 ++ b1 ++ b0

end Sys2Proof
end

