-- ==== Sys2Proof/Config.lean ====
section
/-! DEFINITION. What the hardware fixes (spec/00_scope.md R6) and the values the spec leaves open. The open ones are
`opaque` with no body: nothing can be proved about which value they hold. -/

namespace Sys2Proof.Config

/-- `MAX_VOICES` (R6). -/
def maxVoices : Nat := 16

/-- `NUM_PARAMS`: parameter cells 0 to 16 (R6). -/
def numParams : Nat := 17

/-- `NUM_PARTIALS`: harmonics 1 to 16 (R6). -/
def numPartials : Nat := 16

/-- `MAX_CHANNELS` (R6). -/
def maxChannels : Nat := 2

/-- `MAX_BLOCK`, samples per channel (R6; I9: the value this hardware takes). -/
def maxBlock : Nat := 4096

/-- SAMPLE_RAM's size in words (R41). -/
def ramWords : Nat := maxChannels * maxBlock

/-- The largest `age`: a u64 that saturates (R27). -/
def maxAge : Nat := 2 ^ 64 - 1

/-- Reset value of `ENV_S`, 1.0 (R45). -/
def resetEnvS : Word := 0x3F800000#32

/-- Reset value of `SAMPLE_RATE`, 44100.0 (R45). -/
def resetSampleRate : Word := 0x472C4400#32

/-- `UNIQUE_ID`, an OPEN 32-bit parameter (R38, I7; DESIGN CHOICE, log entry 5). -/
opaque uniqueId : Word

/-- `PLUGIN_NAME`, an OPEN host-side string (R186, I8; DESIGN CHOICE, log entry 5). -/
opaque pluginName : String

/-- `VENDOR_NAME`, an OPEN host-side string (R186, I8; DESIGN CHOICE, log entry 5). -/
opaque vendorName : String

/-- FREE VALUE. What SAMPLE_RAM word `index` holds after the reset numbered `epoch`, until something writes it: any
32 bits, fixed until written (R225, I3; DESIGN CHOICE, log entry 2). -/
opaque unwrittenWord (epoch index : Nat) : Word

/-- FREE VALUE. Which of two neighbouring binary32 values `sin` rounds to for the magnitude `n` × 2^-149, consulted only
where the model's enclosure of the sine does not decide the rounding (R120; UNVERIFIED, log entry 1). -/
opaque sineUndecided (n : Nat) : Bool

end Sys2Proof.Config
end

