-- ==== Sys2Proof/Machine/State.lean ====
section
/-! DEFINITION. The state of the SAVE block as plain data (spec/10_state.md R20), with the host's side of its ports, and
the state right after reset (R45). -/

namespace Sys2Proof.Machine

/-- Why a step could stop the machine. The spec has no such reason: every error is a response status (R195) and the block
has no hang and no stuck state (spec/60_exceptions.md R213), so nothing raises a fault (safe). -/
inductive Fault where
  deriving DecidableEq, Repr

/-- Why a step could have no meaning. -/
inductive Refusal where
  /-- Raised by an arm of `exec` whose instruction has no meaning yet (safe); no arm raises it, all have one. -/
  | notModelled (mnemonic : String)
  deriving DecidableEq, Repr

/-- The response statuses (R195). -/
inductive Status where
  /-- 0x00: the command did what its rule says. -/
  | ok
  /-- 0x01: a validation error (R198). -/
  | eInval
  /-- 0x02: a reserved opcode, or one not admitted on port A (R196). -/
  | eIllegal
  /-- 0x03: a field outside its defined range (R197). -/
  | eRange
  deriving DecidableEq, Repr

/-- The two command ports (R3). -/
inductive PortId where
  /-- Port H, the host/audio command port. -/
  | h
  /-- Port A, the automation command port. -/
  | a
  deriving DecidableEq, Repr

/-- A live voice (R25). -/
structure Voice where
  /-- `note`, u7: at most 127 by its width (R26). -/
  note : BitVec 7
  /-- `velocity`, u7. -/
  velocity : BitVec 7
  /-- `age`, a saturating u64 sample counter (R27). -/
  age : BitVec 64
  /-- `released` (R28). -/
  released : Bool
  /-- `rel_age`: the age at release, 0 while not released (R28). -/
  relAge : BitVec 64
  deriving DecidableEq, Repr

/-- The hidden state of a RENDER in progress (R42): its parameter snapshot, and the block size its command gave (R12). -/
structure RenderJob where
  /-- `SNAP[0..16]` (R152). -/
  snap : Vector F32 17
  /-- `C`. -/
  channels : Byte
  /-- `N`. -/
  samples : BitVec 16
  deriving DecidableEq, Repr

/-- SAMPLE_RAM (R41) as the words written since reset: (word index, value) pairs, indices strictly rising. A word that is
not listed has not been written since reset and reads as the free value `Config.unwrittenWord` (R225; DESIGN CHOICE,
log entries 2 and 8). -/
abbrev Memory := List (Nat × Word)

/-- The canonical form: indices strictly rise and lie inside SAMPLE_RAM, so equal contents are equal lists. -/
abbrev Memory.wf (m : Memory) : Prop :=
  m.Pairwise (fun x y => x.1 < y.1) ∧ ∀ x ∈ m, x.1 < Config.ramWords

/-- One access of the host memory port (R53). -/
inductive MemAccess where
  /-- `MemRead(index, 4)`. -/
  | read (index : Nat)
  /-- `MemWrite(index, 4, value)`. -/
  | write (index : Nat) (value : Word)
  deriving DecidableEq, Repr

/-- What the host memory port gives back when an access completes (R53, R55). -/
inductive MemAnswer where
  /-- The word a read returned. -/
  | data (value : Word)
  /-- A write has completed. -/
  | done
  deriving DecidableEq, Repr

/-- A command port: the host's commands not yet answered, its position in the host's sequence (R22), and the responses it
has produced since reset (R63). -/
structure CommandPort where
  /-- Commands presented and not yet answered, oldest first; the head may be in progress. -/
  pending : List Command
  /-- The index, in the host's sequence since reset, of the next command to answer (R22). -/
  position : Nat
  /-- Responses produced since reset, oldest first. -/
  responses : List Response
  deriving DecidableEq, Repr

/-- The host memory port: accesses not yet performed, and completions since reset, oldest first (R53, R54). -/
structure MemoryPort where
  /-- Accesses waiting; held while BUSY = 1. -/
  pending : List MemAccess
  /-- Completions. -/
  answers : List MemAnswer
  deriving DecidableEq, Repr

/-- What happens next at the block's boundary, or which agent moves next (R3, R64; DESIGN CHOICE, log entry 3). -/
inductive Move where
  /-- The host presents a whole 64-bit command on a port (R57). -/
  | present (port : PortId) (word : Command)
  /-- The host presents an access on the host memory port (R53). -/
  | request (access : MemAccess)
  /-- The reset input is asserted and released (R220). -/
  | resetInput
  /-- A port executes its next command; port H finishes its RENDER if one is in progress. -/
  | run (port : PortId)
  /-- Port H begins its next command, a RENDER, and latches SNAP; the rest of the RENDER comes later (R62, R152). -/
  | latch
  /-- The host memory port performs its oldest access, unless BUSY = 1 holds it (R54). -/
  | serve
  deriving DecidableEq, Repr

/-- The state. `issuer`, `agenda` and `epoch`, and the queues and logs of the ports, are the model's own (INVENTORY.md,
State); everything else is R20's list. -/
structure State where
  /-- `P[0..16]` (R21). -/
  params : Vector F32 17
  /-- The live voices `V[0]` to `V[VCOUNT-1]`, oldest first; VCOUNT is the length (R24). An unoccupied slot has no
  contents (R29). -/
  voices : List Voice
  /-- `MODE` (R31). -/
  mode : Word
  /-- `ENV_A` (R32). -/
  envA : Word
  /-- `ENV_D` (R33). -/
  envD : Word
  /-- `ENV_S`, an f32 (R34). -/
  envS : F32
  /-- `ENV_R` (R35). -/
  envR : Word
  /-- `SAMPLE_RATE`, an f32 (R36). -/
  sampleRate : F32
  /-- `STATUS.SIL` (R37). -/
  sil : Bool
  /-- SAMPLE_RAM (R41). -/
  ram : Memory
  /-- The RENDER in progress, with SNAP; BUSY is 1 exactly when there is one (R42). -/
  render : Option RenderJob
  /-- Port H (R3, R22). -/
  portH : CommandPort
  /-- Port A (R3, R22). -/
  portA : CommandPort
  /-- The host memory port (R3, R53). -/
  memPort : MemoryPort
  /-- The port whose command is being executed: admission (R77) and the response (R72) depend on it (DESIGN CHOICE,
  log entry 4). -/
  issuer : PortId
  /-- What the outside does and which agent moves next (R64; DESIGN CHOICE, log entry 3). -/
  agenda : List Move
  /-- How many resets have happened: the free contents of SAMPLE_RAM are drawn afresh at each (R220; DESIGN
  CHOICE, log entry 2). -/
  epoch : Nat
  deriving DecidableEq, Repr

/-- A command port with nothing presented, at the first command (R45). -/
def CommandPort.idle : CommandPort where
  pending := []
  position := 0
  responses := []

/-- The state right after reset (R45). -/
def State.reset : State where
  params := Vector.replicate 17 0#32
  voices := []
  mode := 0#32
  envA := 0#32
  envD := 0#32
  envS := Config.resetEnvS
  envR := 0#32
  sampleRate := Config.resetSampleRate
  sil := false
  ram := []
  render := none
  portH := CommandPort.idle
  portA := CommandPort.idle
  memPort := ⟨[], []⟩
  issuer := .h
  agenda := []
  epoch := 0

end Sys2Proof.Machine
end

