-- ==== Sys2Proof/Machine/Flags.lean ====
section
/-! DEFINITION. Every flag the spec gives (spec/10_state.md R23): the response status, the sticky STATUS.SIL, the mode
bits, and the words they are read in. -/

namespace Sys2Proof.Machine

/-- The `ST` code of a status (R72, R195). -/
def Status.code (st : Status) : Byte :=
  match st with
  | .ok => 0x00#8
  | .eInval => 0x01#8
  | .eIllegal => 0x02#8
  | .eRange => 0x03#8

/-- `respond(st, data)`'s word: `ST`, 24 zero bits, `DATA` (R72). -/
def responseWord (st : Status) (data : Word) : Response := st.code ++ 0#24 ++ data

/-- BUSY (R42). -/
def State.busy (s : State) : Bool := s.render.isSome

/-- VCOUNT (R24). -/
def State.vcount (s : State) : Nat := s.voices.length

/-- MODE.REL_MODE, bit 0 (R31). -/
def State.relMode (s : State) : Bool := s.mode.getLsbD 0

/-- MODE.OFF_MODE, bit 1 (R31). -/
def State.offMode (s : State) : Bool := s.mode.getLsbD 1

/-- MODE as CRD reads it: reserved bits 0 (R31, R168). -/
def modeWord (s : State) : Word := 0#30 ++ BitVec.ofBool s.offMode ++ BitVec.ofBool s.relMode

/-- What a CWR stores in MODE: the reserved bits are dropped (R31, R167). -/
def modeWritten (value : Word) : Word := value &&& 0x00000003#32

/-- STATUS as CRD reads it: VCOUNT in bits 12:8, SIL in bit 0 (R37, R168). -/
def statusWord (s : State) : Word :=
  0#19 ++ BitVec.ofNat 5 s.vcount ++ 0#7 ++ BitVec.ofBool s.sil

/-- SIL after a CWR to STATUS: cleared by a 1 in bit 0, else unchanged (R37, R167). -/
def silWritten (value : Word) (sil : Bool) : Bool := sil && !value.getLsbD 0

/-- RENDER's response DATA (R158). -/
def renderData (sil : Bool) (nv : Nat) : Word := BitVec.ofBool sil ++ 0#26 ++ BitVec.ofNat 5 nv

/-- `CAPS`: capacity constants (R39). -/
def capsWord : Word :=
  BitVec.ofNat 8 (Nat.log2 Config.maxBlock) ++ BitVec.ofNat 8 Config.maxChannels ++
    BitVec.ofNat 8 Config.numParams ++ BitVec.ofNat 8 Config.maxVoices

end Sys2Proof.Machine
end

