-- ==== Sys2Proof/Machine/Float.lean ====
section
/-! DEFINITION. Binary32 arithmetic (spec/00_scope.md R9, G1): exact results on integers, then one rounding to nearest,
ties to even. Subnormals are kept, nothing is fused, and there are no exception flags. Magnitudes are measured in units
of 2^-149, the least positive binary32 value. -/

namespace Sys2Proof.Machine

/-- What a 32-bit pattern stands for. `fin neg m e` is ± m · 2^e units of 2^-149. -/
inductive FloatValue where
  | nan
  | inf (neg : Bool)
  | fin (neg : Bool) (m e : Nat)
  deriving DecidableEq, Repr

/-- The value of a pattern. -/
def unpack (x : F32) : FloatValue :=
  let neg := decide (2 ^ 31 ≤ x.toNat)
  let e := x.toNat / 2 ^ 23 % 256
  let f := x.toNat % 2 ^ 23
  if e = 255 then if f = 0 then .inf neg else .nan
  else if e = 0 then .fin neg f 0
  else .fin neg (2 ^ 23 + f) (e - 1)

/-- The quotient `num / den` rounded to an integer, ties to even. -/
def divRoundEven (num den : Nat) : Nat :=
  let q := num / den
  let r := num % den
  if den < 2 * r ∨ (2 * r = den ∧ q % 2 = 1) then q + 1 else q

/-- The magnitude bits of `num / den` units, rounded to nearest even: 24 significant bits, or the 2^-149 grid below the
normal range, or infinity past the largest finite value. -/
def roundMag (num den : Nat) : Nat :=
  let e := Nat.log2 (num / den) - 23
  min (e * 2 ^ 23 + divRoundEven num (den * 2 ^ e)) 0x7F800000

/-- A pattern from its sign and its magnitude bits. -/
def packSign (neg : Bool) (mag : Nat) : F32 :=
  BitVec.ofNat 32 (if neg then 2 ^ 31 + mag else mag)

/-- The NaN that arithmetic produces. DESIGN CHOICE (log entry 6): R9 and I18 leave its payload open and unobservable. -/
def arithNan : F32 := 0x7FC00000#32

/-- ±0.0. -/
def signedZero (neg : Bool) : F32 := packSign neg 0

/-- ±inf. -/
def signedInf (neg : Bool) : F32 := packSign neg 0x7F800000

/-- Sign flipped. -/
def fneg (x : F32) : F32 := x ^^^ 0x80000000#32

/-- The finite value in units, signed. -/
def signedUnits (neg : Bool) (m e : Nat) : Int :=
  if neg then -((m * 2 ^ e : Nat) : Int) else ((m * 2 ^ e : Nat) : Int)

/-- An exact sum of units, rounded; a zero sum is -0.0 only when both operands are negative. -/
def roundSum (sum : Int) (bothNeg : Bool) : F32 :=
  if sum = 0 then signedZero bothNeg else packSign (decide (sum < 0)) (roundMag sum.natAbs 1)

/-- `a +f b`. -/
def fadd (a b : F32) : F32 :=
  match unpack a, unpack b with
  | .nan, _ => arithNan
  | _, .nan => arithNan
  | .inf s, .inf t => if s = t then signedInf s else arithNan
  | .inf s, .fin _ _ _ => signedInf s
  | .fin _ _ _, .inf t => signedInf t
  | .fin s m e, .fin t n d => roundSum (signedUnits s m e + signedUnits t n d) (s && t)

/-- `a -f b`. -/
def fsub (a b : F32) : F32 := fadd a (fneg b)

/-- `a *f b`. -/
def fmul (a b : F32) : F32 :=
  match unpack a, unpack b with
  | .nan, _ => arithNan
  | _, .nan => arithNan
  | .inf s, .inf t => signedInf (s ^^ t)
  | .inf s, .fin t n _ => if n = 0 then arithNan else signedInf (s ^^ t)
  | .fin s m _, .inf t => if m = 0 then arithNan else signedInf (s ^^ t)
  | .fin s m e, .fin t n d => packSign (s ^^ t) (roundMag (m * n * 2 ^ (e + d)) (2 ^ 149))

/-- `a /f b`. -/
def fdiv (a b : F32) : F32 :=
  match unpack a, unpack b with
  | .nan, _ => arithNan
  | _, .nan => arithNan
  | .inf _, .inf _ => arithNan
  | .inf s, .fin t _ _ => signedInf (s ^^ t)
  | .fin s _ _, .inf t => signedZero (s ^^ t)
  | .fin s m e, .fin t n d =>
    if n = 0 then if m = 0 then arithNan else signedInf (s ^^ t)
    else packSign (s ^^ t) (roundMag (m * 2 ^ (e + 149)) (n * 2 ^ d))

/-- `cvt32(i)`: the nearest binary32 of a non-negative integer. -/
def cvt32 (i : Nat) : F32 := packSign false (roundMag (i * 2 ^ 149) 1)

/-- A non-NaN value as a signed integer that orders as IEEE compares: infinity is the step past the largest finite
value. -/
def orderKey (x : F32) : Option Int :=
  match unpack x with
  | .nan => none
  | .inf s => some (signedUnits s (2 ^ 23) 254)
  | .fin s m e => some (signedUnits s m e)

/-- `a >=f b`, false when either is NaN. -/
def fge (a b : F32) : Bool :=
  match orderKey a, orderKey b with
  | some x, some y => decide (y ≤ x)
  | _, _ => false

/-- `a >f b`, false when either is NaN. -/
def fgt (a b : F32) : Bool :=
  match orderKey a, orderKey b with
  | some x, some y => decide (y < x)
  | _, _ => false

/-- `isfinite(x)`: false for NaN, +inf and -inf. -/
def isFinite (x : F32) : Bool :=
  match unpack x with
  | .nan => false
  | .inf _ => false
  | .fin _ _ _ => true

/-- 1.0. -/
def fOne : F32 := 0x3F800000#32

/-- +0.0. -/
def fZero : F32 := 0x00000000#32

end Sys2Proof.Machine
end

