-- ==== Sys2Proof/Machine/Envelope.lean ====
section
/-! DEFINITION. The ADSR envelope (spec/42_envelope.md R125 to R130), a function of the five registers it reads. -/

namespace Sys2Proof.Machine

/-- `ATTACK(t)` (R126). -/
def attackGain (s : State) (t : Nat) : F32 := fdiv (cvt32 t) (cvt32 s.envA.toNat)

/-- `DECAY(t)` (R127). -/
def decayGain (s : State) (t : Nat) : F32 :=
  fsub fOne (fmul (fsub fOne s.envS) (fdiv (cvt32 (t - s.envA.toNat)) (cvt32 s.envD.toNat)))

/-- `RELBASE(t, rel_age)` (R129); 0 where `t` is below `rel_age`, which no run reaches (DESIGN CHOICE, log entry 12). -/
def releaseBase (s : State) (t relAge : Nat) : Nat := if s.relMode then t - relAge else t

/-- The floor of the release: `w` when it is above zero, else +0.0 (R130). -/
def floorZero (w : F32) : F32 := if fgt w fZero then w else fZero

/-- `RELEASE(u)` (R130). DEDUCED (log entry 10): for a negative sustain level the formula stands, not R134's remark. -/
def releaseGain (s : State) (u : Nat) : F32 :=
  if s.envR = 0#32 then fZero
  else floorZero (fsub s.envS (fdiv (fmul s.envS (cvt32 u)) (cvt32 s.envR.toNat)))

/-- `ENV(t, released, rel_age)` (R125). -/
def envelope (s : State) (t : Nat) (released : Bool) (relAge : Nat) : F32 :=
  if released then releaseGain s (releaseBase s t relAge)
  else if t < s.envA.toNat then attackGain s t
  else if t < s.envA.toNat + s.envD.toNat then decayGain s t
  else s.envS

end Sys2Proof.Machine
end

