-- ==== Sys2Proof/Machine/Operands.lean ====
section
/-! DEFINITION. The operand forms: the three index spaces a command byte selects from (spec/20_memory.md R50), the word
index of a sample (spec/10_state.md R41) and the ranges that operands are checked against. -/

namespace Sys2Proof.Machine

/-- The control registers (R30). -/
inductive ControlReg where
  | mode | envA | envD | envS | envR | sampleRate | status | id | caps
  deriving DecidableEq, Repr

/-- The register a number names; 0x09 to 0xFF are undefined (R30, R40). -/
def controlReg? (reg : Byte) : Option ControlReg :=
  if reg = 0x00#8 then some .mode
  else if reg = 0x01#8 then some .envA
  else if reg = 0x02#8 then some .envD
  else if reg = 0x03#8 then some .envS
  else if reg = 0x04#8 then some .envR
  else if reg = 0x05#8 then some .sampleRate
  else if reg = 0x06#8 then some .status
  else if reg = 0x07#8 then some .id
  else if reg = 0x08#8 then some .caps
  else none

/-- The parameter cell an index names; 17 to 255 name none (R51, R140). -/
def paramCell? (index : Byte) : Option (Fin 17) :=
  if h : index.toNat < 17 then some ⟨index.toNat, h⟩ else none

/-- The fields VRD can read (R169). -/
inductive VoiceField where
  | summary | ageLow | ageHigh | relAgeLow | relAgeHigh
  deriving DecidableEq, Repr

/-- The field a VRD selector names; 5 to 255 name none (R169). -/
def voiceField? (sel : Byte) : Option VoiceField :=
  if sel = 0x00#8 then some .summary
  else if sel = 0x01#8 then some .ageLow
  else if sel = 0x02#8 then some .ageHigh
  else if sel = 0x03#8 then some .relAgeLow
  else if sel = 0x04#8 then some .relAgeHigh
  else none

/-- A note or velocity byte in [0, 127] (R26, R90). -/
def sevenBit (b : Byte) : Bool := decide (b.toNat ≤ 127)

/-- RENDER's operands are inside the block bounds (R151). -/
def renderInRange (channels : Byte) (samples : BitVec 16) : Bool :=
  decide (samples.toNat ≤ Config.maxBlock ∧ channels.toNat ≤ Config.maxChannels)

/-- The SAMPLE_RAM word of sample `i` of channel `c`, planar (R41). -/
def sampleWord (c i : Nat) : Nat := c * Config.maxBlock + i

/-- The words of a block's `N × C` region, channel by channel (R153). -/
def region (job : RenderJob) : List Nat :=
  (List.range job.channels.toNat).flatMap fun c => (List.range job.samples.toNat).map (sampleWord c)

end Sys2Proof.Machine
end

