-- ==== Sys2Proof/Machine/Ops.lean ====
section
/-! DEFINITION. The named operations over ports, registers, parameter cells and SAMPLE_RAM. Every command ends in
`complete`; an error is nothing but its status there (spec/60_exceptions.md R199, R205: the block has no trap entry and no
trap return). -/

namespace Sys2Proof.Machine

/-! ### Ports and responses -/

/-- A command port by its name (R3). -/
def State.port (s : State) (p : PortId) : CommandPort :=
  match p with
  | .h => s.portH
  | .a => s.portA

/-- A command port changed. -/
def State.setPort (s : State) (p : PortId) (c : CommandPort) : State :=
  match p with
  | .h => { s with portH := c }
  | .a => { s with portA := c }

/-- The next command of a port, in arrival order (R63). -/
def fetch (p : PortId) (s : State) : Option Command := (s.port p).pending.head?

/-- A port after one more response: its position advances by exactly one, and the command is answered (R22, R63). -/
def CommandPort.answered (c : CommandPort) (r : Response) : CommandPort where
  pending := c.pending.tail
  position := c.position + 1
  responses := c.responses ++ [r]

/-- `respond(st, data)` on the port that issued the command (R8, R72). -/
def respond (st : Status) (data : Word) (s : State) : State :=
  s.setPort s.issuer ((s.port s.issuer).answered (responseWord st data))

/-- What a command's own work gives: the state it leaves, and its response's status and data. -/
structure Reply where
  /-- The state before the response is produced. -/
  state : State
  /-- `ST`. -/
  status : Status
  /-- `DATA`. -/
  data : Word
  deriving DecidableEq, Repr

/-- An error: the status, DATA 0, and no effect on any state (R199). -/
def failWith (st : Status) (s : State) : Reply := ⟨s, st, 0#32⟩

/-- The state once a command's effects are complete and its one response is produced (R63). -/
def Reply.settle (r : Reply) : State := respond r.status r.data r.state

/-- A command always ends with its response, never in a stop (R213). -/
def complete (r : Reply) : Host.Outcome State Fault Refusal := .next r.settle

/-- Port admission (R77, R207): a command that only port H may issue answers E_ILLEGAL on port A, before any other error
(R200). -/
def portHOnly (body : State → Reply) (s : State) : Reply :=
  match s.issuer with
  | .h => body s
  | .a => failWith .eIllegal s

/-! ### Parameter Store -/

/-- `P[i]` (R8, R21). -/
def readParam (i : Fin 17) (s : State) : F32 := s.params[i]

/-- `P[i] <- v`: all 32 bits, unchanged (R141). -/
def writeParam (i : Fin 17) (v : F32) (s : State) : State := { s with params := s.params.set i v }

/-! ### Control registers -/

/-- `CREG[r]` as CRD reads it (R168). -/
def readControl (r : ControlReg) (s : State) : Word :=
  match r with
  | .mode => modeWord s
  | .envA => s.envA
  | .envD => s.envD
  | .envS => s.envS
  | .envR => s.envR
  | .sampleRate => s.sampleRate
  | .status => statusWord s
  | .id => Config.uniqueId
  | .caps => capsWord

/-- `CREG[r] <- v` as CWR writes it: reserved bits dropped, STATUS write-1-to-clear, ID and CAPS read-only (R167). -/
def writeControl (r : ControlReg) (v : Word) (s : State) : State :=
  match r with
  | .mode => { s with mode := modeWritten v }
  | .envA => { s with envA := v }
  | .envD => { s with envD := v }
  | .envS => { s with envS := v }
  | .envR => { s with envR := v }
  | .sampleRate => { s with sampleRate := v }
  | .status => { s with sil := silWritten v s.sil }
  | .id => s
  | .caps => s

/-! ### SAMPLE_RAM -/

/-- The value written to word `a` since reset, if any. -/
def Memory.find (m : Memory) (a : Nat) : Option Word :=
  match m with
  | [] => none
  | x :: rest => if x.1 = a then some x.2 else Memory.find rest a

/-- Word `a` becomes `v`; the indices stay strictly rising. -/
def Memory.put (m : Memory) (a : Nat) (v : Word) : Memory :=
  match m with
  | [] => [(a, v)]
  | x :: rest =>
    if a < x.1 then (a, v) :: x :: rest
    else if x.1 = a then (a, v) :: rest
    else x :: Memory.put rest a v

/-- The contents of word `a`: what was written, else the free value of this reset (R225). -/
def Memory.word (m : Memory) (epoch a : Nat) : Word :=
  match m.find a with
  | some v => v
  | none => Config.unwrittenWord epoch a

/-- `RAM[a]` as the host memory port reads it; an index past the end reads 0 (R53, R55). -/
def readRam (a : Nat) (s : State) : Word :=
  if a < Config.ramWords then s.ram.word s.epoch a else 0#32

/-- `RAM[a] <- v` as the host memory port writes it; an index past the end is ignored (R53, R55). -/
def writeRam (a : Nat) (v : Word) (s : State) : State :=
  if a < Config.ramWords then { s with ram := s.ram.put a v } else s

/-- Every word of a list set to +0.0 (R153, R155). -/
def Memory.zero (m : Memory) (words : List Nat) : Memory := words.foldl (fun m a => m.put a 0#32) m

/-! ### The host memory port -/

/-- One access performed (R53, R55). -/
def performAccess (x : MemAccess) (s : State) : State :=
  match x with
  | .read a => { s with memPort := ⟨s.memPort.pending, s.memPort.answers ++ [.data (readRam a s)]⟩ }
  | .write a v =>
    let s' := writeRam a v s
    { s' with memPort := ⟨s'.memPort.pending, s'.memPort.answers ++ [.done]⟩ }

/-- The oldest access is performed, or held while BUSY = 1 (R54). -/
def serveMemory (s : State) : State :=
  if s.busy then s
  else
    match s.memPort.pending with
    | [] => s
    | x :: rest => performAccess x { s with memPort := ⟨rest, s.memPort.answers⟩ }

/-! ### The outside -/

/-- The host presents a command on a port (R57, R63). -/
def presentCommand (p : PortId) (w : Command) (s : State) : State :=
  let c := s.port p
  s.setPort p { c with pending := c.pending ++ [w] }

/-- The host presents an access on the host memory port (R53). -/
def requestAccess (x : MemAccess) (s : State) : State :=
  { s with memPort := ⟨s.memPort.pending ++ [x], s.memPort.answers⟩ }

/-- The reset input (R220): every element takes its reset value, what was presented is discarded without response, and
SAMPLE_RAM becomes unspecified afresh. What the outside does afterwards is still to come. -/
def applyReset (s : State) : State :=
  { State.reset with agenda := s.agenda, epoch := s.epoch + 1 }

end Sys2Proof.Machine
end

