-- ==== Sys2Proof/Machine/VoicePool.lean ====
section
/-! DEFINITION. The voice pool (spec/40_voice_pool.md R90 to R96) and its two commands. -/

namespace Sys2Proof.Machine

/-- The voice a note-on creates (R90). -/
def newVoice (note velocity : Byte) : Voice where
  note := note.setWidth 7
  velocity := velocity.setWidth 7
  age := 0#64
  released := false
  relAge := 0#64

/-- `VP_NOTE_ON(note, vel)`: append, and evict the oldest past the capacity; DATA 1 tells of an eviction (R90). -/
def vpNoteOn (note velocity : Byte) (s : State) : Reply :=
  if sevenBit note && sevenBit velocity then
    let grown := s.voices ++ [newVoice note velocity]
    if Config.maxVoices < grown.length then ⟨{ s with voices := grown.tail }, .ok, 1#32⟩
    else ⟨{ s with voices := grown }, .ok, 0#32⟩
  else failWith .eInval s

/-- A voice that a note-off of `note` matches: under OFF_MODE 1 only one not yet released (R91). -/
def offMatches (offMode : Bool) (note : Byte) (v : Voice) : Bool :=
  v.note.setWidth 8 == note && (!offMode || !v.released)

/-- A voice marked released at its present age (R28). -/
def Voice.release (v : Voice) : Voice := { v with released := true, relAge := v.age }

/-- The pool after the first match is removed (OFF_MODE 0) or marked released (OFF_MODE 1); none without a match
(R91). -/
def noteOffScan (offMode : Bool) (note : Byte) : List Voice → Option (List Voice)
  | [] => none
  | v :: rest =>
    if offMatches offMode note v then some (if offMode then v.release :: rest else rest)
    else (noteOffScan offMode note rest).map (v :: ·)

/-- `VP_NOTE_OFF(note)`: DATA 1 tells of a match; a miss is no error (R91, R202). -/
def vpNoteOff (note : Byte) (s : State) : Reply :=
  match noteOffScan s.offMode note s.voices with
  | some pool => ⟨{ s with voices := pool }, .ok, 1#32⟩
  | none => ⟨s, .ok, 0#32⟩

/-- An age advanced by `n` samples, saturating (R27, R95). -/
def advanceAge (age : BitVec 64) (n : Nat) : BitVec 64 := BitVec.ofNat 64 (min (age.toNat + n) Config.maxAge)

/-- A voice `n` samples later (R95). -/
def Voice.tick (v : Voice) (n : Nat) : Voice := { v with age := advanceAge v.age n }

/-- `VP_TICK(n)` (R95). -/
def vpTick (n : Nat) (s : State) : State := { s with voices := s.voices.map (·.tick n) }

/-- A released voice whose envelope has reached +0.0 (R96). -/
def reapable (s : State) (v : Voice) : Bool :=
  v.released && envelope s v.age.toNat true v.relAge.toNat == fZero

/-- `VP_REAP`: the survivors keep their order (R96). -/
def vpReap (s : State) : State := { s with voices := s.voices.filter fun v => !reapable s v }

/-- NOTE_ON (R92). -/
def execNoteOn (note velocity : Byte) (s : State) : Host.Outcome State Fault Refusal :=
  complete (portHOnly (vpNoteOn note velocity) s)

/-- NOTE_OFF (R93). -/
def execNoteOff (note : Byte) (s : State) : Host.Outcome State Fault Refusal :=
  complete (portHOnly (vpNoteOff note) s)

end Sys2Proof.Machine
end

