-- ==== Sys2Proof/Machine/HostCommands.lean ====
section
/-! DEFINITION. The event and control commands (spec/45_host_commands.md R165 to R169) and the reserved opcodes
(spec/30_encoding.md R75). -/

namespace Sys2Proof.Machine

/-- NOP, on both ports (R166). -/
def execNop (s : State) : Host.Outcome State Fault Refusal := complete ⟨s, .ok, 0#32⟩

/-- EVENT_NOTE_OFF: status 0x80; `data2`, the release velocity, is ignored (R165). -/
def execEventNoteOff (data1 _data2 : Byte) (s : State) : Host.Outcome State Fault Refusal :=
  complete (portHOnly (vpNoteOff data1) s)

/-- EVENT_NOTE_ON_V0: a note-on with `data2` = 0 is a note-off (R165). -/
def execEventNoteOnV0 (data1 : Byte) (s : State) : Host.Outcome State Fault Refusal :=
  complete (portHOnly (vpNoteOff data1) s)

/-- EVENT_NOTE_ON (R165). -/
def execEventNoteOn (data1 data2 : Byte) (s : State) : Host.Outcome State Fault Refusal :=
  complete (portHOnly (vpNoteOn data1 data2) s)

/-- EVENT_IGNORED: any other status byte (R165). -/
def execEventIgnored (_status _data1 _data2 : Byte) (s : State) : Host.Outcome State Fault Refusal :=
  complete (portHOnly (fun t => ⟨t, .ok, 0#32⟩) s)

/-- CWR's work: an undefined number answers E_RANGE (R167, R40). -/
def controlWrite (reg : Byte) (value : Word) (s : State) : Reply :=
  match controlReg? reg with
  | some r => ⟨writeControl r value s, .ok, 0#32⟩
  | none => failWith .eRange s

/-- CWR (R167). -/
def execCwr (reg : Byte) (value : Word) (s : State) : Host.Outcome State Fault Refusal :=
  complete (portHOnly (controlWrite reg value) s)

/-- CRD's work: an undefined number answers E_RANGE (R168, R40). -/
def controlRead (reg : Byte) (s : State) : Reply :=
  match controlReg? reg with
  | some r => ⟨s, .ok, readControl r s⟩
  | none => failWith .eRange s

/-- CRD (R168). -/
def execCrd (reg : Byte) (s : State) : Host.Outcome State Fault Refusal :=
  complete (portHOnly (controlRead reg) s)

/-- A voice's selector-0 word: live, released, note and velocity (R169). -/
def voiceSummary (v : Voice) : Word :=
  1#1 ++ BitVec.ofBool v.released ++ 0#15 ++ v.note ++ 0#1 ++ v.velocity

/-- One field of a voice (R169). -/
def voiceFieldWord (f : VoiceField) (v : Voice) : Word :=
  match f with
  | .summary => voiceSummary v
  | .ageLow => v.age.extractLsb' 0 32
  | .ageHigh => v.age.extractLsb' 32 32
  | .relAgeLow => v.relAge.extractLsb' 0 32
  | .relAgeHigh => v.relAge.extractLsb' 32 32

/-- VRD's work: the selector is checked before the slot; an empty slot reads 0 (R169, R29). -/
def voiceRead (slot sel : Byte) (s : State) : Reply :=
  match voiceField? sel with
  | none => failWith .eRange s
  | some f =>
    match s.voices[slot.toNat]? with
    | some v => ⟨s, .ok, voiceFieldWord f v⟩
    | none => ⟨s, .ok, 0#32⟩

/-- VRD (R169). -/
def execVrd (slot sel : Byte) (s : State) : Host.Outcome State Fault Refusal :=
  complete (portHOnly (voiceRead slot sel) s)

/-- ILLEGAL: a reserved opcode answers E_ILLEGAL on either port, and no state keeps it (R75, R196). -/
def execIllegal (_op : Byte) (s : State) : Host.Outcome State Fault Refusal :=
  complete (failWith .eIllegal s)

end Sys2Proof.Machine
end

