-- ==== Sys2Proof/Machine/ParameterStore.lean ====
section
/-! DEFINITION. The parameter store's two commands (spec/43_parameter_store.md R140 to R142), admitted on both ports. -/

namespace Sys2Proof.Machine

/-- The store after a PSET; an out-of-range index is a silent no-op (R141). -/
def psetState (index : Byte) (value : F32) (s : State) : State :=
  match paramCell? index with
  | some i => writeParam i value s
  | none => s

/-- The value a PGET returns; +0.0 for an out-of-range index (R142). -/
def pgetValue (index : Byte) (s : State) : F32 :=
  match paramCell? index with
  | some i => readParam i s
  | none => 0#32

/-- PSET (R141). -/
def execPset (index : Byte) (value : F32) (s : State) : Host.Outcome State Fault Refusal :=
  complete ⟨psetState index value s, .ok, 0#32⟩

/-- PGET (R142). -/
def execPget (index : Byte) (s : State) : Host.Outcome State Fault Refusal :=
  complete ⟨s, .ok, pgetValue index s⟩

end Sys2Proof.Machine
end

