-- ==== Sys2Proof/Machine/Sine.lean ====
section
/-! DEFINITION. `SIN32`, the reference this hardware takes (spec/41_oscillator_bank.md R120; spec/00_scope.md R6): the real
sine of the argument rounded to the nearest binary32, ties to even, for an argument of any size.

The real sine is enclosed on the fixed-point grid 2^-512, within 2^-380: the argument is exact, it is reduced by π/2 with
π to 512 fractional bits (an argument is below 2^128, so the reduction is off by less than 2^-384), and the Taylor series
is summed to 48 terms. Where both ends of the enclosure round to one value, that value is the correctly rounded sine.
Where they do not, the result is either end, by the free choice `Config.sineUndecided`. UNVERIFIED: the width 2^-380 of
the enclosure is argued, not proved (log entry 1). -/

namespace Sys2Proof.Machine

/-- π in units of 2^-512, rounded down. -/
def piScaled : Nat :=
  0x3243F6A8885A308D313198A2E03707344A4093822299F31D0082EFA98EC4E6C89452821E638D01377BE5466CF34E90C6CC0AC29B7C97C50DD3F84D5B5B5470917

/-- 1 in units of 2^-512. -/
def oneScaled : Nat := 2 ^ 512

/-- The half-width of the enclosure, 2^-380, in units of 2^-512. -/
def sineSlack : Nat := 2 ^ 132

/-- `1 - z/(i(i+1)) · (1 - z/((i+2)(i+3)) · (1 - …))` to `terms` levels, `z` and the result in units of 2^-512. -/
def taylorTail (z : Nat) : (terms i : Nat) → Nat
  | 0, _ => oneScaled
  | terms + 1, i => oneScaled - z * taylorTail z terms (i + 2) / (oneScaled * (i * (i + 1)))

/-- The square of `r`, in units of 2^-512. -/
def squareScaled (r : Nat) : Nat := r * r / oneScaled

/-- sin r for r in [0, π/2], in units of 2^-512, approximately. -/
def sinScaled (r : Nat) : Nat := r * taylorTail (squareScaled r) 48 2 / oneScaled

/-- cos r for r in [0, π/2], in units of 2^-512, approximately. -/
def cosScaled (r : Nat) : Nat := taylorTail (squareScaled r) 48 1

/-- How many whole π/2 fit in `n` units of 2^-149. -/
def quadrant (n : Nat) : Nat := n * 2 ^ 364 / piScaled

/-- What remains of `n` units of 2^-149 past the whole π/2's, in units of 2^-512. -/
def reduced (n : Nat) : Nat := n * 2 ^ 364 % piScaled / 2

/-- |sin x| for x = `n` units of 2^-149, in units of 2^-512, approximately. -/
def absSine (n : Nat) : Nat :=
  if quadrant n % 2 = 0 then sinScaled (reduced n) else cosScaled (reduced n)

/-- The magnitude bits of a value in units of 2^-512. -/
def roundScaled (t : Nat) : Nat := roundMag t (2 ^ 363)

/-- The magnitude bits the lower end of the enclosure rounds to. -/
def sineLow (n : Nat) : Nat := roundScaled (absSine n - sineSlack)

/-- The magnitude bits the upper end of the enclosure rounds to; a sine is at most 1. -/
def sineHigh (n : Nat) : Nat := roundScaled (min (absSine n + sineSlack) oneScaled)

/-- The magnitude bits of the sine of `n` units of 2^-149. -/
def sineMag (n : Nat) : Nat :=
  if sineLow n = sineHigh n then sineLow n
  else if Config.sineUndecided n then sineHigh n else sineLow n

/-- `SIN32(x)` (R120). -/
def sin32 (x : F32) : F32 :=
  match unpack x with
  | .nan => arithNan
  | .inf _ => arithNan
  | .fin neg m e => packSign (neg ^^ decide (2 ≤ quadrant (m * 2 ^ e) % 4)) (sineMag (m * 2 ^ e))

end Sys2Proof.Machine
end

