-- ==== Sys2Proof/Machine/Oscillator.lean ====
section
/-! DEFINITION. The oscillator bank (spec/41_oscillator_bank.md R110 to R121): one voice's contribution to a block. -/

namespace Sys2Proof.Machine

/-- `TWO_PI32` (R121). -/
def twoPi32 : F32 := 0x40C90FDB#32

/-- 2.0. -/
def fTwo : F32 := 0x40000000#32

/-- 127.0. -/
def f127 : F32 := 0x42FE0000#32

/-- `VELF(vel)` (R111). -/
def velocityFactor (velocity : BitVec 7) : F32 := fdiv (cvt32 velocity.toNat) f127

/-- `TIME(age, s)` (R112). -/
def timeIndex (age : BitVec 64) (i : Nat) : Nat := min (age.toNat + i) Config.maxAge

/-- `PHASE(t, pitch, sr)` (R113). -/
def phase (t : Nat) (pitch sr : F32) : F32 := fdiv (fmul (fmul (cvt32 t) pitch) twoPi32) sr

/-- `half`, the Nyquist frequency (R114). -/
def nyquist (sr : F32) : F32 := fdiv sr fTwo

/-- `SKIP(pitch, n, half)` (R114). -/
def skipped (pitch : F32) (n : Nat) (half : F32) : Bool := fge (fmul pitch (cvt32 n)) half

/-- `SNAP[n]` (R8, R152). -/
def snapCell (snap : Vector F32 17) (n : Nat) : F32 := (snap[n]?).getD fZero

/-- `TERM(SNAP, vf, n, phi)` (R115). -/
def harmonicTerm (snap : Vector F32 17) (vf : F32) (n : Nat) (phi : F32) : F32 :=
  fmul (fmul (fmul (snapCell snap 0) vf) (snapCell snap n)) (sin32 (fmul (cvt32 n) phi))

/-- The harmonics that are not skipped, ascending (R114, R116). -/
def survivors (pitch half : F32) : List Nat :=
  (List.range Config.numPartials).map (· + 1) |>.filter fun n => !skipped pitch n half

/-- The harmonic sum of one sample: +0.0 plus the surviving terms in ascending order (R116). -/
def harmonicSum (snap : Vector F32 17) (vf pitch half phi : F32) : F32 :=
  (survivors pitch half).foldl (fun acc n => fadd acc (harmonicTerm snap vf n phi)) fZero

/-- `mono`: voice `v`'s value at sample `i` of the block, envelope applied (R110, R117). -/
def monoSample (s : State) (snap : Vector F32 17) (v : Voice) (i : Nat) : F32 :=
  let t := timeIndex v.age i
  let pitch := freqRom v.note
  let phi := phase t pitch s.sampleRate
  fmul (harmonicSum snap (velocityFactor v.velocity) pitch (nyquist s.sampleRate) phi)
    (envelope s t v.released v.relAge.toNat)

/-- A word becomes its old value `+f mono` (R118). -/
def addToWord (epoch : Nat) (mono : F32) (m : Memory) (a : Nat) : Memory :=
  m.put a (fadd (m.word epoch a) mono)

/-- Sample `i` of voice `v`, added to every channel of the block (R118). -/
def addSample (s : State) (job : RenderJob) (v : Voice) (m : Memory) (i : Nat) : Memory :=
  let mono := monoSample s job.snap v i
  (List.range job.channels.toNat).foldl (fun m c => addToWord s.epoch mono m (sampleWord c i)) m

/-- `OSC_VOICE` (R110): it only adds (R119). -/
def oscVoice (s : State) (job : RenderJob) (m : Memory) (v : Voice) : Memory :=
  (List.range job.samples.toNat).foldl (addSample s job v) m

end Sys2Proof.Machine
end

