-- ==== Sys2Proof/Machine/Renderer.lean ====
section
/-! DEFINITION. RENDER (spec/44_renderer.md R150 to R158), as its latch and the rest of its work: between the two, port A
may write parameters and the host memory port is held (spec/20_memory.md R54, R62). `exec` runs both in one step. DEDUCED
(log entry 9): the work after the latch is one step. -/

namespace Sys2Proof.Machine

/-- BUSY <- 1 and the one atomic latch of all 17 cells (R150, R152). -/
def renderBegin (channels : Byte) (samples : BitVec 16) (s : State) : State :=
  { s with render := some ⟨s.params, channels, samples⟩ }

/-- Every voice summed into the zeroed region, in pool order (R153, R154). -/
def sumVoices (s : State) (job : RenderJob) : Memory :=
  s.voices.foldl (oscVoice s job) (s.ram.zero (region job))

/-- Some word of the region is not finite (R155). -/
def blockFaults (epoch : Nat) (job : RenderJob) (m : Memory) : Bool :=
  (region job).any fun a => !isFinite (m.word epoch a)

/-- `SilenceFault()`: every word of the region becomes +0.0 and STATUS.SIL is set (R155, R201). -/
def silence (job : RenderJob) (m : Memory) (s : State) : State :=
  { s with ram := m.zero (region job), sil := true }

/-- The mixed block in SAMPLE_RAM, degraded to silence when it faults (R153 to R155). -/
def mixBlock (job : RenderJob) (s : State) : State :=
  let m := sumVoices s job
  if blockFaults s.epoch job m then silence job m s else { s with ram := m }

/-- BUSY <- 0; SNAP ceases to exist (R42, R150). -/
def renderEnd (s : State) : State := { s with render := none }

/-- A RENDER from its zeroing to its response (R150, R153 to R158). -/
def renderFinish (job : RenderJob) (s : State) : Reply where
  state := renderEnd (vpReap (vpTick job.samples.toNat (mixBlock job s)))
  status := .ok
  data := renderData (blockFaults s.epoch job (sumVoices s job)) s.vcount

/-- RENDER's work (R150, R151). -/
def renderBlock (channels : Byte) (samples : BitVec 16) (s : State) : Reply :=
  if renderInRange channels samples then
    renderFinish ⟨s.params, channels, samples⟩ (renderBegin channels samples s)
  else failWith .eRange s

/-- RENDER (R150). -/
def execRender (channels : Byte) (samples : BitVec 16) (s : State) : Host.Outcome State Fault Refusal :=
  complete (portHOnly (renderBlock channels samples) s)

end Sys2Proof.Machine
end

