-- ==== Sys2Proof/Machine/Dispatch.lean ====
section
/-! DEFINITION. One arm per command (spec/30_encoding.md R73, R74). -/

namespace Sys2Proof.Machine

def exec (i : Instr) (s : State) : Host.Outcome State Fault Refusal :=
  match i with
  | .nop => Sys2Proof.Machine.execNop s
  | .eventNoteOff data1 data2 => Sys2Proof.Machine.execEventNoteOff data1 data2 s
  | .eventNoteOnV0 data1 => Sys2Proof.Machine.execEventNoteOnV0 data1 s
  | .eventNoteOn data1 data2 => Sys2Proof.Machine.execEventNoteOn data1 data2 s
  | .eventIgnored status data1 data2 => Sys2Proof.Machine.execEventIgnored status data1 data2 s
  | .noteOn note velocity => Sys2Proof.Machine.execNoteOn note velocity s
  | .noteOff note => Sys2Proof.Machine.execNoteOff note s
  | .pset index value => Sys2Proof.Machine.execPset index value s
  | .pget index => Sys2Proof.Machine.execPget index s
  | .render channels samples => Sys2Proof.Machine.execRender channels samples s
  | .cwr reg value => Sys2Proof.Machine.execCwr reg value s
  | .crd reg => Sys2Proof.Machine.execCrd reg s
  | .vrd slot sel => Sys2Proof.Machine.execVrd slot sel s
  | .illegal op => Sys2Proof.Machine.execIllegal op s

end Sys2Proof.Machine
end

