-- ==== Sys2Proof/Machine/Agents.lean ====
section
/-! DEFINITION. What each agent does when it moves (spec/00_scope.md R3; spec/20_memory.md R62 to R64). Every command but
RENDER is one atomic step; a RENDER is one step too, or a latch and later the rest (DEDUCED, log entry 9). -/

namespace Sys2Proof.Machine

/-- A port executes its next command; with none presented it is idle, and idling loses no state (R63, R212). -/
def runCommand (p : PortId) (s : State) : Host.Outcome State Fault Refusal :=
  match fetch p s with
  | none => .next s
  | some w => exec (Sys2Proof.decode w) { s with issuer := p }

/-- A port's move: port H first finishes a RENDER in progress, since it runs one command at a time (R63). -/
def runPort (p : PortId) (s : State) : Host.Outcome State Fault Refusal :=
  match p with
  | .a => runCommand .a s
  | .h =>
    match s.render with
    | some job => complete (renderFinish job { s with issuer := .h })
    | none => runCommand .h s

/-- Port H begins the RENDER that is its next command; any other command, or one that R151 rejects, has no latch. -/
def latchRender (s : State) : State :=
  match s.render, (fetch .h s).map Sys2Proof.decode with
  | none, some (.render c n) => if renderInRange c n then renderBegin c n s else s
  | _, _ => s

/-- Who moves when the agenda names nobody: port H, else port A, else the host memory port, else nobody (DESIGN CHOICE,
log entry 3). -/
def arbitrate (s : State) : Host.Outcome State Fault Refusal :=
  if (fetch .h s).isSome || s.busy then runPort .h s
  else if (fetch .a s).isSome then runPort .a s
  else .next (serveMemory s)

/-- One move. -/
def takeMove (m : Move) (s : State) : Host.Outcome State Fault Refusal :=
  match m with
  | .present p w => .next (presentCommand p w s)
  | .request x => .next (requestAccess x s)
  | .resetInput => .next (applyReset s)
  | .run p => runPort p s
  | .latch => .next (latchRender s)
  | .serve => .next (serveMemory s)

/-- The agenda's next move, or the arbitration. -/
def nextMove (s : State) : Host.Outcome State Fault Refusal :=
  match s.agenda with
  | [] => arbitrate s
  | m :: rest => takeMove m { s with agenda := rest }

/-- `word` made port H's next command, with port H to move and no RENDER in progress. -/
def placeCommand (word : Command) (s : State) : State :=
  { s with
    portH := { s.portH with pending := word :: s.portH.pending }
    render := none
    agenda := .run .h :: s.agenda }

end Sys2Proof.Machine
end

