-- ==== Sys2Proof/Machine/Step.lean ====
section
/-! DEFINITION. One step of the block, and how the host places a command (DEDUCED, log entry 7). -/

namespace Sys2Proof.Machine

/-- One step: one move of one agent, or of the outside. -/
def step (s : State) : Host.Outcome State Fault Refusal := nextMove s

/-- `s` with the command whose table bits are `w` as the command the next step runs on port H. -/
def State.withFetchWord (s : State) (nbits w : Nat) : State :=
  placeCommand (BitVec.ofNat 64 (w % 2 ^ nbits)) s

end Sys2Proof.Machine
end

