-- ==== Sys2Proof/Machine/HostMetadata.lean ====
section
/-! DEFINITION. The host-side reference functions and static metadata (spec/46_host_metadata.md R186 to R188). They run in
host software: no command calls them, and they change no state. -/

namespace Sys2Proof.Machine

/-- Input channels the host declares (R186). -/
def hostInputChannels : Nat := 0

/-- Output channels the host declares (R186). -/
def hostOutputChannels : Nat := 2

/-- The category the host declares (R186). -/
def hostCategory : String := "synthesizer"

/-- The addressable parameters the host declares (R186). -/
def hostParameterCount : Nat := Config.numParams

/-- `name(index)`: the human-readable label, empty past index 16 (R187). -/
def paramName (index : Nat) : String :=
  if index = 0 then "Oscillator A Amplitude"
  else if index ≤ 16 then "Oscillator A Partial " ++ toString index
  else ""

/-- Two decimal digits. -/
def twoDigits (n : Nat) : String := toString (n / 10) ++ toString (n % 10)

/-- A count of hundredths of a percent as text; the sign only on a value that is not zero (R188). -/
def percentText (neg : Bool) (hundredths : Nat) : String :=
  (if neg && hundredths != 0 then "-" else "") ++ toString (hundredths / 100) ++ "." ++
    twoDigits (hundredths % 100) ++ "%"

/-- An f32 as a percentage: the exact `v × 100` rounded to two places, ties to even (R188). -/
def percentOf (v : F32) : String :=
  match unpack v with
  | .nan => "NaN%"
  | .inf neg => if neg then "-inf%" else "inf%"
  | .fin neg m e => percentText neg (divRoundEven (m * 2 ^ e * 10000) (2 ^ 149))

/-- `display_text(index)`: the text of the value PGET returns, empty past index 16 (R188). -/
def displayText (index : Byte) (s : State) : String :=
  match paramCell? index with
  | some i => percentOf (readParam i s)
  | none => ""

end Sys2Proof.Machine
end

