-- ==== Sys2Proof/Safety.lean ====
section
/-! DEFINITION. What a sound state is, the status each rule asks for, and the words that statements about commands use:
how a command answers and what it leaves as it was. -/

namespace Sys2Proof.Machine

/-! ### Sound states -/

/-- A voice the pool can hold (R26, R28, R99); its note and velocity are at most 127 by their width. -/
abbrev Voice.wf (v : Voice) : Prop :=
  v.relAge.toNat ≤ v.age.toNat ∧ (v.released = false → v.relAge = 0#64)

/-- A response the block can produce: bits 55:32 are 0 (R72, R76) and the status is one of four (R195). -/
def responseWf (r : Response) : Bool :=
  r.extractLsb' 32 24 == 0#24 && decide ((r.extractLsb' 56 8).toNat ≤ 3)

/-- A port has produced exactly one response for each command it has moved past (R22, R63). -/
abbrev CommandPort.wf (c : CommandPort) : Prop :=
  c.responses.length = c.position ∧ c.responses.all responseWf = true

/-- A RENDER in progress is port H's next command and is inside the block bounds (R42, R151). -/
abbrev State.jobWf (s : State) : Prop :=
  ∀ job ∈ s.render, renderInRange job.channels job.samples = true ∧
    (fetch .h s).map Sys2Proof.decode = some (.render job.channels job.samples)

/-- A sound state: SAMPLE_RAM in canonical form, at most 16 voices (R97) each sound, MODE's reserved bits 0 (R31), each
port in step with its responses, and a RENDER in progress accounted for. -/
abbrev State.wf (s : State) : Prop :=
  s.ram.wf ∧ s.voices.length ≤ Config.maxVoices ∧ (∀ v ∈ s.voices, v.wf) ∧ s.mode &&& 0xFFFFFFFC#32 = 0#32 ∧
    s.portH.wf ∧ s.portA.wf ∧ s.jobWf

/-! ### The status the rules ask for -/

/-- The status of a command on port H (R195 to R198). -/
def portHStatus (i : Instr) : Status :=
  match i with
  | .nop => .ok
  | .eventNoteOff _ _ => .ok
  | .eventNoteOnV0 _ => .ok
  | .eventNoteOn data1 data2 => if 127 < data1.toNat ∨ 127 < data2.toNat then .eInval else .ok
  | .eventIgnored _ _ _ => .ok
  | .noteOn note velocity => if 127 < note.toNat ∨ 127 < velocity.toNat then .eInval else .ok
  | .noteOff _ => .ok
  | .pset _ _ => .ok
  | .pget _ => .ok
  | .render channels samples => if 4096 < samples.toNat ∨ 2 < channels.toNat then .eRange else .ok
  | .cwr reg _ => if 0x09 ≤ reg.toNat then .eRange else .ok
  | .crd reg => if 0x09 ≤ reg.toNat then .eRange else .ok
  | .vrd _ sel => if 4 < sel.toNat then .eRange else .ok
  | .illegal _ => .eIllegal

/-- The commands port A admits (R77). -/
def admittedOnA (i : Instr) : Bool :=
  match i with
  | .nop => true
  | .pset _ _ => true
  | .pget _ => true
  | _ => false

/-- The status of a command on a port, admission first (R196, R200). -/
def expectedStatus (i : Instr) (p : PortId) : Status :=
  if p = .a ∧ admittedOnA i = false then .eIllegal else portHStatus i

/-! ### What a command answers and what it leaves -/

/-- `t` is `s` after one response of status `st` and data `data` on the port that issued the command: that port's
position is one further and its command is done; the other port is as it was. -/
def answeredWith (s t : State) (st : Status) (data : Word) : Prop :=
  (t.port s.issuer).responses = (s.port s.issuer).responses ++ [responseWord st data] ∧
    (t.port s.issuer).position = (s.port s.issuer).position + 1 ∧
    (t.port s.issuer).pending = (s.port s.issuer).pending.tail ∧
    ∀ p, p ≠ s.issuer → t.port p = s.port p

/-- The parameter cells are as they were. -/
def sameParams (s t : State) : Prop := t.params = s.params

/-- The voice pool is as it was. -/
def samePool (s t : State) : Prop := t.voices = s.voices

/-- The six writable control registers are as they were. -/
def sameControls (s t : State) : Prop :=
  t.mode = s.mode ∧ t.envA = s.envA ∧ t.envD = s.envD ∧ t.envS = s.envS ∧ t.envR = s.envR ∧
    t.sampleRate = s.sampleRate

/-- STATUS.SIL is as it was. -/
def sameSil (s t : State) : Prop := t.sil = s.sil

/-- Every word of SAMPLE_RAM reads as it did. -/
def sameRam (s t : State) : Prop := ∀ a, readRam a t = readRam a s

/-- BUSY and SNAP are as they were. -/
def sameRender (s t : State) : Prop := t.render = s.render

/-- The host memory port and what is to come are as they were. -/
def sameOutside (s t : State) : Prop :=
  t.memPort = s.memPort ∧ t.issuer = s.issuer ∧ t.agenda = s.agenda ∧ t.epoch = s.epoch

/-- Everything but the command ports is as it was. -/
def sameCore (s t : State) : Prop :=
  sameParams s t ∧ samePool s t ∧ sameControls s t ∧ sameSil s t ∧ sameRam s t ∧ sameRender s t ∧ sameOutside s t

/-- On port A the command answers E_ILLEGAL with DATA 0 and does nothing else (R77). -/
def rejectedOnA (i : Instr) : Prop :=
  ∀ s : State, s.issuer = .a → ∃ t, exec i s = .next t ∧ answeredWith s t .eIllegal 0#32 ∧ sameCore s t

/-- Commands executed one after another, each on its port (R63); none if one stops. -/
def execSeq : List (PortId × Instr) → State → Option State
  | [], s => some s
  | c :: rest, s =>
    match exec c.2 { s with issuer := c.1 } with
    | .next t => execSeq rest t
    | .fault _ => none
    | .refused _ => none

/-- The three commands that do `VP_NOTE_OFF(note)` (R93, R165). -/
def isNoteOff (i : Instr) (note : Byte) : Prop :=
  i = .noteOff note ∨ (∃ data2, i = .eventNoteOff note data2) ∨ i = .eventNoteOnV0 note

/-- The two commands that do `VP_NOTE_ON(note, velocity)` (R92, R165). -/
def isNoteOn (i : Instr) (note velocity : Byte) : Prop :=
  i = .noteOn note velocity ∨ i = .eventNoteOn note velocity

/-- A voice that a note-off of `note` ends: under OFF_MODE 1 only one not yet released (R91). -/
def endsAt (s : State) (note : Byte) (v : Voice) : Prop :=
  v.note.toNat = note.toNat ∧ (s.mode.getLsbD 1 = false ∨ v.released = false)

/-- A move that is neither port H's nor the reset input's. -/
def awayFromPortH (m : Move) : Prop :=
  m = .run .a ∨ (∃ w, m = .present .a w) ∨ (∃ x, m = .request x) ∨ m = .serve

/-- The next step has port H execute the command `i`, at the agenda's word or by the arbitration. -/
def portHRuns (s : State) (i : Instr) : Prop :=
  s.render = none ∧ (s.agenda = [] ∨ s.agenda.head? = some (.run .h)) ∧
    (fetch .h s).map Sys2Proof.decode = some i

/-- The voice a valid note-on appends: `note[6:0]`, `vel[6:0]`, age 0, not released (R90). -/
def freshVoice (note velocity : Byte) : Voice := ⟨note.extractLsb' 0 7, velocity.extractLsb' 0 7, 0#64, false, 0#64⟩

/-- What a step from `s` may make of a voice `u` that stays in the pool: note and velocity stay (R26); the age stays, or a
RENDER takes it no lower (R27); the release stays, or a note-off of its note on port H under OFF_MODE 1 sets it, with
`rel_age` the age (R28). -/
def continuesAs (s : State) (u v : Voice) : Prop :=
  v.note = u.note ∧ v.velocity = u.velocity ∧
    (v.age = u.age ∨ u.age.toNat ≤ v.age.toNat ∧ (s.render ≠ none ∨ ∃ c n, portHRuns s (.render c n))) ∧
    (v.released = u.released ∧ v.relAge = u.relAge ∨
      u.released = false ∧ v.released = true ∧ v.relAge = u.age ∧ s.mode.getLsbD 1 = true ∧
        ∃ i note, isNoteOff i note ∧ note.toNat = u.note.toNat ∧ portHRuns s i)

/-! ### The audio a block should hold -/

/-- The envelope as R125 to R130 write it, in one piece. -/
def gainBySpec (s : State) (t : Nat) (released : Bool) (relAge : Nat) : F32 :=
  if released then
    let u := if s.mode.getLsbD 0 then t - relAge else t
    let w := fsub s.envS (fdiv (fmul s.envS (cvt32 u)) (cvt32 s.envR.toNat))
    if s.envR = 0#32 then 0x00000000#32 else if fgt w 0x00000000#32 then w else 0x00000000#32
  else if t < s.envA.toNat then fdiv (cvt32 t) (cvt32 s.envA.toNat)
  else if t < s.envA.toNat + s.envD.toNat then
    fsub 0x3F800000#32
      (fmul (fsub 0x3F800000#32 s.envS) (fdiv (cvt32 (t - s.envA.toNat)) (cvt32 s.envD.toNat)))
  else s.envS

/-- `mono` of sample `i` as OSC_VOICE's pseudocode computes it, its loop over `n` from 1 to 16 passing over the skipped
harmonics (R110 to R117, R121). -/
def monoBySpec (s : State) (snap : Vector F32 17) (v : Voice) (i : Nat) : F32 :=
  let pitch := freqRom v.note
  let vf := fdiv (cvt32 v.velocity.toNat) 0x42FE0000#32
  let half := fdiv s.sampleRate 0x40000000#32
  let t := min (v.age.toNat + i) (2 ^ 64 - 1)
  let phi := fdiv (fmul (fmul (cvt32 t) pitch) 0x40C90FDB#32) s.sampleRate
  let acc := (List.range' 1 16).foldl (fun acc n =>
    if fge (fmul pitch (cvt32 n)) half then acc
    else fadd acc (fmul (fmul (fmul snap[0] vf) (snap.toList.getD n 0#32)) (sin32 (fmul (cvt32 n) phi)))) 0x00000000#32
  fmul acc (gainBySpec s t v.released v.relAge.toNat)

/-- Sample `i` of a block with no fault: the voices' `mono` values added to +0.0 in pool order (R153, R154). -/
def mixedSample (s : State) (i : Nat) : F32 :=
  s.voices.foldl (fun acc v => fadd acc (monoSample s s.params v i)) fZero

/-- Some sample of an `N`-sample block is not finite (R155). -/
def mixFaults (s : State) (samples : Nat) : Bool :=
  (List.range samples).any fun i => !isFinite (mixedSample s i)

/-- The pool after a block of `n` samples: aged, then rid of the released voices whose gain is +0.0 (R95, R96). -/
def poolAfterBlock (s : State) (n : Nat) : List Voice :=
  (s.voices.map (·.tick n)).filter fun v =>
    !(v.released && envelope s v.age.toNat true v.relAge.toNat == 0x00000000#32)

/-- The value, in units of 2^-149, of a finite pattern. -/
def finiteUnits (x : F32) : Option Int := if isFinite x then orderKey x else none

/-! ### What binary32 arithmetic should give (R9, G1) -/

/-- The sign bit of a pattern. -/
def signBit (x : F32) : Bool := x.getLsbD 31

/-- A NaN pattern: exponent field all ones, fraction not zero. -/
def isNanPattern (x : F32) : Prop := x.extractLsb' 23 8 = 0xFF#8 ∧ x.extractLsb' 0 23 ≠ 0#23

/-- The infinity of a sign. -/
def infOf (neg : Bool) : F32 := if neg then 0xFF800000#32 else 0x7F800000#32

/-- The zero of a sign. -/
def zeroOf (neg : Bool) : F32 := if neg then 0x80000000#32 else 0x00000000#32

/-- The magnitude, in units of 2^-149, from which rounding to nearest overflows: halfway past the largest finite value. -/
def overflowUnits : Int := (2 ^ 25 - 1) * 2 ^ 252

/-- `r` is the exact value `num / den`, in units of 2^-149, rounded to nearest with ties to even: below the overflow
threshold a finite value that no finite value is nearer than, even on a tie; from there on the infinity of its sign. -/
def roundsTo (r : F32) (num den : Int) : Prop :=
  if |num| < overflowUnits * |den| then
    ∃ kr, finiteUnits r = some kr ∧ ∀ (y : F32) (ky : Int), finiteUnits y = some ky →
      |kr * den - num| ≤ |ky * den - num| ∧
        (|kr * den - num| = |ky * den - num| → kr = ky ∨ r.getLsbD 0 = false)
  else r = infOf (decide (num * den < 0))

end Sys2Proof.Machine
end

