-- ==== Sys2Proof/Certificates/Slice0/Obligations.lean ====
section
/-! DEFINITION. What is claimed of the model, for the provers: every `def Obligations.<Name> : Prop` is listed in
OBLIGATIONS.json. Each docstring names the rules of spec/ it rests on. -/

open Sys2Proof Sys2Proof.Machine

/-! ### Encoding (30_encoding.md) -/

/-- Decoding an encoded well-formed command gives it back (R70, R71, R73, R74, R80). -/
def Obligations.DecodeEncodeRoundTrip : Prop :=
  ∀ i : Instr, i.wellFormed = true → decode (encode i) = i

/-- The decoder is total and takes the first row of the opcode table that a word hits (R79). -/
def Obligations.DecodeTakesFirstTableRow : Prop :=
  ∀ w : Command, (decode w).wellFormed = true ∧ (decode w).row = firstRow w ∧ firstRow w < opcodeRows.length

/-- Ignored fields never matter, and bits 55:32 of a response are always 0 (R76). -/
def Obligations.IgnoredFieldsNeverMatter : Prop :=
  (∀ w w' : Command, w &&& usedFields (opField w) = w' &&& usedFields (opField w) → decode w = decode w') ∧
    ∀ (i : Instr) (s : State), ∃ t r, exec i s = .next t ∧
      (t.port s.issuer).responses = (s.port s.issuer).responses ++ [r] ∧ r.extractLsb' 32 24 = 0#24

/-- Words that the spec writes out decode to the commands it gives them (R80, R81, and the examples of R92, R93, R141,
R142, R165, R169 and 95_test_vectors.md X1 to X12). -/
def Obligations.SpecWordsDecode : Prop :=
  decode 0x0000000000000000#64 = .nop ∧ decode 0x01803C4000000000#64 = .eventNoteOff 60#8 64#8 ∧
    decode 0x01903C0000000000#64 = .eventNoteOnV0 60#8 ∧ decode 0x0190457F00000000#64 = .eventNoteOn 69#8 127#8 ∧
    decode 0x01B0076400000000#64 = .eventIgnored 0xB0#8 7#8 100#8 ∧
    decode 0x0200457F00000000#64 = .noteOn 69#8 127#8 ∧ decode 0x03003C0000000000#64 = .noteOff 60#8 ∧
    decode 0x040000013F800000#64 = .pset 1#8 0x3F800000#32 ∧ decode 0x0500001100000000#64 = .pget 17#8 ∧
    decode 0x0601100100000000#64 = .render 1#8 4097#16 ∧ decode 0x07000005472C4400#64 = .cwr 5#8 0x472C4400#32 ∧
    decode 0x0800000300000000#64 = .crd 3#8 ∧ decode 0x0900030000000000#64 = .vrd 0#8 3#8 ∧
    decode 0xFFFFFFFFFFFFFFFF#64 = .illegal 0xFF#8

/-- An EVENT's form follows its whole status byte and, for 0x90, its `data2`; the operands of EVENT, NOTE_ON, NOTE_OFF and
RENDER come from the fields R71 names (R71, R74). -/
def Obligations.OperandsComeFromTheirFields : Prop :=
  ∀ w : Command,
    (opField w = 0x01#8 → f1Field w = 0x80#8 → decode w = .eventNoteOff (f2Field w) (f3Field w)) ∧
    (opField w = 0x01#8 → f1Field w = 0x90#8 → f3Field w = 0#8 → decode w = .eventNoteOnV0 (f2Field w)) ∧
    (opField w = 0x01#8 → f1Field w = 0x90#8 → f3Field w ≠ 0#8 →
      decode w = .eventNoteOn (f2Field w) (f3Field w)) ∧
    (opField w = 0x01#8 → f1Field w ≠ 0x80#8 → f1Field w ≠ 0x90#8 →
      decode w = .eventIgnored (f1Field w) (f2Field w) (f3Field w)) ∧
    (opField w = 0x02#8 → decode w = .noteOn (f2Field w) (f3Field w)) ∧
    (opField w = 0x03#8 → decode w = .noteOff (f2Field w)) ∧
    (opField w = 0x06#8 → ∃ c n, decode w = .render c n ∧ c = f1Field w ∧
      n.toNat = 256 * (f2Field w).toNat + (f3Field w).toNat)

/-- A command or response carried as halves goes high half first: a response's status is in the first half and its DATA
is the second (R57, R72); and a bridge's byte `j` is bits 8j+7:8j (R56). -/
def Obligations.HalvesAndBridgeBytesReassemble : Prop :=
  (∀ hi lo : Word, (commandOfHalves hi lo).extractLsb' 32 32 = hi ∧ (commandOfHalves hi lo).extractLsb' 0 32 = lo) ∧
    (∀ (st : Status) (data : Word), responseHalves (responseWord st data) = [st.code ++ 0#24, data]) ∧
    (∀ r : Response, ∃ first second, responseHalves r = [first, second] ∧ first ++ second = r) ∧
    ∀ v : Word, wordOfBridgeBytes (bridgeByte v 0) (bridgeByte v 1) (bridgeByte v 2) (bridgeByte v 3) = v ∧
      ∀ j k : Nat, j < 4 → k < 8 → (bridgeByte v j).getLsbD k = v.getLsbD (8 * j + k)

/-! ### The step, the ports and the outside -/

/-- A port's move executes the command at its head, decoded, with the port as its issuer; the same when the agenda is
empty, port H first; and a placed word is the next command run (R63, R79; log entries 3 and 7 for the agenda). -/
def Obligations.StepRunsDecodedCommand : Prop :=
  (∀ (s : State) (p : PortId) (w : Command) (rest : List Move), s.agenda = .run p :: rest →
      (p = .h → s.render = none) → fetch p s = some w →
      step s = exec (decode w) { s with agenda := rest, issuer := p }) ∧
    (∀ (s : State) (w : Command), s.agenda = [] → s.render = none → fetch .h s = some w →
      step s = exec (decode w) { s with issuer := .h }) ∧
    (∀ (s : State) (w : Command), s.agenda = [] → s.render = none → fetch .h s = none → fetch .a s = some w →
      step s = exec (decode w) { s with issuer := .a }) ∧
    ∀ (s : State) (w : Command), step (s.withFetchWord 64 w.toNat) =
      exec (decode w) { s with
        portH := { s.portH with pending := w :: s.portH.pending }, render := none, issuer := .h }

/-- The block has no hang and no stuck state: every step, from every state, gives a next state (R213). -/
def Obligations.StepNeverStops : Prop := ∀ s : State, ∃ t, step s = .next t

/-- Every command ends with exactly one response word on the port that issued it, laid out as `ST`, 24 zero bits and
`DATA` (R72). -/
def Obligations.CommandAnswersExactlyOnce : Prop :=
  (∀ (i : Instr) (s : State), ∃ t st data, exec i s = .next t ∧ answeredWith s t st data ∧ sameOutside s t) ∧
    (∀ (st : Status) (data : Word), (responseWord st data).extractLsb' 56 8 = st.code ∧
      (responseWord st data).extractLsb' 32 24 = 0#24 ∧ (responseWord st data).extractLsb' 0 32 = data) ∧
    Status.ok.code = 0x00#8 ∧ Status.eInval.code = 0x01#8 ∧ Status.eIllegal.code = 0x02#8 ∧
    Status.eRange.code = 0x03#8

/-- In one step a port's position stays, or advances by exactly one with one more response, or is set back by the reset
input (R22). -/
def Obligations.PositionFollowsResponses : Prop :=
  ∀ (s t : State) (p : PortId), step s = .next t →
    ((t.port p).position = (s.port p).position ∧ (t.port p).responses = (s.port p).responses) ∨
      ((t.port p).position = (s.port p).position + 1 ∧
        ∃ r, (t.port p).responses = (s.port p).responses ++ [r]) ∨
      (s.agenda.head? = some .resetInput ∧ (t.port p).position = 0 ∧ (t.port p).responses = [])

/-- A move of port A changes the parameter cells and port A's own side, nothing else (R207, R210). -/
def Obligations.PortATouchesParametersOnly : Prop :=
  ∀ (s t : State) (rest : List Move), s.agenda = .run .a :: rest → step s = .next t →
    samePool s t ∧ sameControls s t ∧ sameSil s t ∧ t.ram = s.ram ∧ sameRender s t ∧ t.portH = s.portH ∧
      t.memPort = s.memPort ∧ t.epoch = s.epoch ∧ t.agenda = rest

/-- Port A admits NOP, PSET and PGET; every other command there answers E_ILLEGAL with DATA 0 and does nothing else
(R77). -/
def Obligations.PortAAdmitsThreeCommands : Prop :=
  ∀ (i : Instr) (s : State), s.issuer = .a → ∃ t, exec i s = .next t ∧
    ((i = .nop ∨ (∃ index value, i = .pset index value) ∨ ∃ index, i = .pget index) →
      ∃ data, answeredWith s t .ok data) ∧
    (¬(i = .nop ∨ (∃ index value, i = .pset index value) ∨ ∃ index, i = .pget index) →
      answeredWith s t .eIllegal 0#32 ∧ sameCore s t)

/-- The status of every command on every port is the one the rules name, E_ILLEGAL before E_RANGE before E_INVAL; an
error's DATA is 0 and it records nothing (R196, R197, R198, R200). -/
def Obligations.StatusFollowsTheErrorRules : Prop :=
  ∀ (i : Instr) (s : State), ∃ t data, exec i s = .next t ∧ answeredWith s t (expectedStatus i s.issuer) data ∧
    (expectedStatus i s.issuer ≠ .ok → data = 0#32 ∧ sameCore s t)

/-- A command that returns an error has no effect on any state but its own response, whose DATA is 0 (R199). -/
def Obligations.ErrorsHaveNoEffect : Prop :=
  ∀ (i : Instr) (s t : State) (st : Status) (data : Word), exec i s = .next t → answeredWith s t st data → st ≠ .ok →
    data = 0#32 ∧ sameCore s t

/-- A host access past the end performs nothing: a read returns 0, a write is ignored, no error is signalled, and nothing
else changes (R55). -/
def Obligations.HostAccessPastEndDoesNothing : Prop :=
  ∀ (s : State) (rest : List Move) (q : List MemAccess) (a : Nat) (v : Word), s.agenda = .serve :: rest →
    s.busy = false → 8192 ≤ a →
    (s.memPort.pending = .read a :: q → ∃ t, step s = .next t ∧ t.memPort.pending = q ∧
      t.memPort.answers = s.memPort.answers ++ [.data 0x00000000#32] ∧ sameRam s t ∧ sameParams s t ∧ samePool s t ∧
      sameControls s t ∧ sameSil s t ∧ sameRender s t ∧ t.portH = s.portH ∧ t.portA = s.portA) ∧
    (s.memPort.pending = .write a v :: q → ∃ t, step s = .next t ∧ t.memPort.pending = q ∧
      t.memPort.answers = s.memPort.answers ++ [.done] ∧ sameRam s t ∧ sameParams s t ∧ samePool s t ∧
      sameControls s t ∧ sameSil s t ∧ sameRender s t ∧ t.portH = s.portH ∧ t.portA = s.portA)

/-- A host access inside SAMPLE_RAM reads its word, or writes its word and no other, and touches nothing else (R53). -/
def Obligations.HostAccessMovesOneWord : Prop :=
  ∀ (s : State) (rest : List Move) (q : List MemAccess) (a : Nat) (v : Word), s.agenda = .serve :: rest →
    s.busy = false → a < 8192 →
    (s.memPort.pending = .read a :: q → ∃ t, step s = .next t ∧ t.memPort.pending = q ∧
      t.memPort.answers = s.memPort.answers ++ [.data (readRam a s)] ∧ sameRam s t ∧ sameParams s t ∧ samePool s t ∧
      sameControls s t ∧ sameSil s t ∧ sameRender s t ∧ t.portH = s.portH ∧ t.portA = s.portA) ∧
    (s.memPort.pending = .write a v :: q → ∃ t, step s = .next t ∧ t.memPort.pending = q ∧
      t.memPort.answers = s.memPort.answers ++ [.done] ∧
      (∀ b, readRam b t = if b = a then v else readRam b s) ∧ sameParams s t ∧ samePool s t ∧
      sameControls s t ∧ sameSil s t ∧ sameRender s t ∧ t.portH = s.portH ∧ t.portA = s.portA)

/-- While BUSY = 1 a host access is held, whatever is to come: serving it changes nothing. Once port H has moved and
given the RENDER's response, it performs against the RAM the RENDER left (R54). That one move of port H ends the RENDER is
the model's reading (log entry 9), and the agenda that orders the moves is the model's own (log entry 3). -/
def Obligations.HostAccessHeldWhileBusy : Prop :=
  ∀ (s : State) (job : RenderJob) (x : MemAccess) (q : List MemAccess), s.render = some job →
    s.memPort.pending = x :: q →
    (∀ rest, s.agenda = .serve :: rest → step s = .next { s with agenda := rest }) ∧
    ∀ rest, s.agenda = .serve :: .run .h :: .serve :: rest →
      ∃ t u, Host.Core.run core 2 s = .next t ∧ Host.Core.run core 3 s = .next u ∧ t.busy = false ∧
        t.memPort = s.memPort ∧ (t.portH).responses.length = (s.portH).responses.length + 1 ∧
        u.memPort.pending = q ∧ u.agenda = rest ∧
        (∀ a, x = .read a → u.memPort.answers = s.memPort.answers ++ [.data (readRam a t)] ∧ sameRam t u) ∧
        ∀ a v, x = .write a v → u.memPort.answers = s.memPort.answers ++ [.done] ∧
          ∀ b, readRam b u = if b = a ∧ a < 8192 then v else readRam b t

/-! ### Reset (10_state.md R45, 70_reset_and_hazards.md R220) -/

/-- The reset values of R45's table. That a word of SAMPLE_RAM, unspecified at reset (R225), reads as the free value of
epoch 0 is the model's choice (log entry 2). -/
def Obligations.ResetValues : Prop :=
  (∀ (k : Nat) (h : k < 17), State.reset.params[k] = 0x00000000#32) ∧ State.reset.voices = [] ∧
    State.reset.mode = 0x00000000#32 ∧ State.reset.envA = 0#32 ∧ State.reset.envD = 0#32 ∧
    State.reset.envS = 0x3F800000#32 ∧ State.reset.envR = 0#32 ∧ State.reset.sampleRate = 0x472C4400#32 ∧
    State.reset.sil = false ∧ State.reset.busy = false ∧ State.reset.portH.position = 0 ∧
    State.reset.portA.position = 0 ∧ ∀ a, a < 8192 → readRam a State.reset = Config.unwrittenWord 0 a

/-- The reset input: every element takes its reset value, commands and accesses presented are discarded without a
response, a RENDER in progress is abandoned, and SAMPLE_RAM is unspecified afresh (R220); the free value of the next
epoch, which it then reads as, is the model's choice (log entry 2). -/
def Obligations.ResetInputDiscardsEverything : Prop :=
  ∀ (s : State) (rest : List Move), s.agenda = .resetInput :: rest → ∃ t, step s = .next t ∧
    t.params = State.reset.params ∧ t.voices = [] ∧ sameControls State.reset t ∧ t.sil = false ∧ t.busy = false ∧
    t.portH = ⟨[], 0, []⟩ ∧ t.portA = ⟨[], 0, []⟩ ∧ t.memPort = ⟨[], []⟩ ∧ t.agenda = rest ∧
    ∀ a, a < 8192 → readRam a t = Config.unwrittenWord (s.epoch + 1) a

/-- The sound-state invariant holds at reset. -/
def Obligations.ResetStateIsSound : Prop := State.reset.wf

/-- Every step from a sound state gives a sound state: SAMPLE_RAM canonical, at most 16 voices (R97), each voice sound
(R99), MODE's reserved bits 0 (R31), one well-formed response for each position (R22, R72), and a RENDER in progress
accounted for. -/
def Obligations.StepKeepsSoundState : Prop := ∀ s t : State, s.wf → step s = .next t → t.wf

/-! ### NOP, EVENT and the reserved opcodes -/

/-- NOP, whatever its ignored fields hold, answers (OK, 0) on either port and does nothing else; the all-zero word is a
NOP (R166). -/
def Obligations.NopOnlyAnswers : Prop :=
  (∀ w : Command, opField w = 0x00#8 → decode w = .nop) ∧ decode 0#64 = .nop ∧
  ∀ s : State, ∃ t, exec .nop s = .next t ∧ answeredWith s t .ok 0#32 ∧ sameCore s t

/-- An EVENT of any other status is ignored: (OK, 0) and no change (R165). -/
def Obligations.IgnoredEventOnlyAnswers : Prop :=
  ∀ (status data1 data2 : Byte) (s : State), s.issuer = .h →
    ∃ t, exec (.eventIgnored status data1 data2) s = .next t ∧ answeredWith s t .ok 0#32 ∧ sameCore s t

/-- A reserved opcode, on either port, answers E_ILLEGAL with DATA 0 and has no other effect (R75). -/
def Obligations.ReservedOpcodeAnswersIllegal : Prop :=
  (∀ w : Command, 0x0A ≤ (opField w).toNat → decode w = .illegal (opField w)) ∧
    ∀ (op : Byte) (s : State),
      ∃ t, exec (.illegal op) s = .next t ∧ answeredWith s t .eIllegal 0#32 ∧ sameCore s t

/-! ### Voice pool (40_voice_pool.md) -/

/-- A note-on rejects a note or velocity above 127; else it appends a voice of age 0, not released, evicting the oldest
past 16 with DATA 1 (R90); nothing else changes. NOTE_ON and EVENT_NOTE_ON. -/
def Obligations.NoteOnCreatesVoice : Prop :=
  ∀ (i : Instr) (note velocity : Byte) (s : State), isNoteOn i note velocity → s.issuer = .h →
    s.voices.length ≤ 16 →
    ∃ t, exec i s = .next t ∧
      sameParams s t ∧ sameControls s t ∧ sameSil s t ∧ sameRam s t ∧ sameRender s t ∧ sameOutside s t ∧
      (127 < note.toNat ∨ 127 < velocity.toNat → answeredWith s t .eInval 0#32 ∧ samePool s t) ∧
      (note.toNat ≤ 127 → velocity.toNat ≤ 127 → ∃ v : Voice, v.note.toNat = note.toNat ∧
        v.velocity.toNat = velocity.toNat ∧ v.age = 0#64 ∧ v.released = false ∧ v.relAge = 0#64 ∧
        if s.voices.length = 16 then t.voices = s.voices.tail ++ [v] ∧ answeredWith s t .ok 1#32
        else t.voices = s.voices ++ [v] ∧ answeredWith s t .ok 0#32)

/-- A note-off ends the first voice that matches: removed under OFF_MODE 0, marked released at its age under OFF_MODE 1,
where a released voice is passed over; with no match it is a no-op, and either way OK (R91, R98, R202). NOTE_OFF,
EVENT_NOTE_OFF and EVENT_NOTE_ON_V0. -/
def Obligations.NoteOffEndsFirstMatch : Prop :=
  ∀ (i : Instr) (note : Byte) (s : State), isNoteOff i note → s.issuer = .h →
    ((∀ v ∈ s.voices, ¬endsAt s note v) →
      ∃ t, exec i s = .next t ∧ answeredWith s t .ok 0#32 ∧ sameCore s t) ∧
    ∀ (pre : List Voice) (v : Voice) (post : List Voice), s.voices = pre ++ v :: post → endsAt s note v →
      (∀ u ∈ pre, ¬endsAt s note u) →
      ∃ t, exec i s = .next t ∧ answeredWith s t .ok 1#32 ∧
        t.voices = pre ++ (if s.mode.getLsbD 1 then
          { v with released := true, relAge := v.age } :: post else post) ∧
        sameParams s t ∧ sameControls s t ∧ sameSil s t ∧ sameRam s t ∧ sameRender s t ∧ sameOutside s t

/-- However many valid note-ons follow one another, the pool holds the last 16 of the old voices, unchanged, followed by
the new ones, of age 0 and not released, in their order, and never more (R97). -/
def Obligations.PoolKeepsSixteenNewest : Prop :=
  ∀ (notes : List (Byte × Byte)) (s : State), s.voices.length ≤ 16 →
    (∀ x ∈ notes, x.1.toNat ≤ 127 ∧ x.2.toNat ≤ 127) →
    ∃ t, execSeq (notes.map fun x => (.h, .noteOn x.1 x.2)) s = some t ∧ t.voices.length ≤ 16 ∧
      t.voices = (s.voices ++ notes.map fun x => freshVoice x.1 x.2).drop (s.voices.length + notes.length - 16)

/-- Whatever a step does, the new pool is voices of the old one, in their order, each with its note and velocity, an age
that only a RENDER raises and nothing lowers, and a release that only a note-off on port H under OFF_MODE 1 sets and nothing
undoes; and after them at most one fresh voice, which only a NOTE_ON or EVENT_NOTE_ON on port H brings (R26, R27, R28). -/
def Obligations.VoicesKeepTheirIdentity : Prop :=
  ∀ s t : State, step s = .next t → ∃ old kept fresh : List Voice, old.Sublist s.voices ∧
    List.Forall₂ (continuesAs s) old kept ∧ t.voices = kept ++ fresh ∧
    (fresh = [] ∨ ∃ i note velocity, isNoteOn i note velocity ∧ note.toNat ≤ 127 ∧ velocity.toNat ≤ 127 ∧
      portHRuns s i ∧ fresh = [freshVoice note velocity])

/-! ### Parameter store (43_parameter_store.md) -/

/-- PSET, on either port: index 0 to 16 takes all 32 bits unchanged, any other index changes nothing; (OK, 0) always, and
a running RENDER's snapshot is untouched (R141). -/
def Obligations.PsetWritesOneCell : Prop :=
  (∀ w : Command, opField w = 0x04#8 → decode w = .pset (f3Field w) (payloadField w)) ∧
  ∀ (index : Byte) (value : F32) (s : State), ∃ t, exec (.pset index value) s = .next t ∧
    answeredWith s t .ok 0#32 ∧
    (∀ (k : Nat) (h : k < 17), t.params[k] = if k = index.toNat then value else s.params[k]) ∧
    samePool s t ∧ sameControls s t ∧ sameSil s t ∧ sameRam s t ∧ sameRender s t ∧ sameOutside s t

/-- PGET, on either port: the cell's 32 bits, +0.0 out of range; no side effect (R142). -/
def Obligations.PgetReadsOneCell : Prop :=
  (∀ w : Command, opField w = 0x05#8 → decode w = .pget (f3Field w)) ∧
  ∀ (index : Byte) (s : State), ∃ t, exec (.pget index) s = .next t ∧ sameCore s t ∧
    (∀ h : index.toNat < 17, answeredWith s t .ok s.params[index.toNat]) ∧
    (17 ≤ index.toNat → answeredWith s t .ok 0x00000000#32)

/-- A parameter written on one port is read back on either, bit for bit, after any commands that do not write it; index
17 and up reads 0 and its writes are not observable (R143). -/
def Obligations.ParameterRoundTrip : Prop :=
  (∀ (index : Byte) (value : F32) (p q : PortId) (between : List (PortId × Instr)) (s : State), index.toNat ≤ 16 →
      (∀ c ∈ between, ∀ v, c.2 ≠ .pset index v) →
      ∃ t u, execSeq ((p, .pset index value) :: between) s = some t ∧
        exec (.pget index) { t with issuer := q } = .next u ∧ answeredWith { t with issuer := q } u .ok value) ∧
    ∀ (index : Byte) (value : F32) (s : State), 17 ≤ index.toNat →
      (∃ t, exec (.pget index) s = .next t ∧ answeredWith s t .ok 0x00000000#32) ∧
      ∃ t, exec (.pset index value) s = .next t ∧ answeredWith s t .ok 0#32 ∧ sameCore s t

/-! ### Control registers and voice readout (45_host_commands.md) -/

/-- CWR writes the register its number names, with reserved bits dropped, STATUS write-1-to-clear, ID and CAPS
read-only, and E_RANGE from 0x09 up; E_ILLEGAL on port A (R167). -/
def Obligations.CwrWritesOneRegister : Prop :=
  (∀ w : Command, opField w = 0x07#8 → decode w = .cwr (f3Field w) (payloadField w)) ∧
  (∀ (reg : Byte) (value : Word), rejectedOnA (.cwr reg value)) ∧
  ∀ (reg : Byte) (value : Word) (s : State), s.issuer = .h → ∃ t, exec (.cwr reg value) s = .next t ∧
    (if reg.toNat ≤ 8 then answeredWith s t .ok 0#32 else answeredWith s t .eRange 0#32) ∧
    t.mode = (if reg = 0x00#8 then value &&& 0x00000003#32 else s.mode) ∧
    t.envA = (if reg = 0x01#8 then value else s.envA) ∧ t.envD = (if reg = 0x02#8 then value else s.envD) ∧
    t.envS = (if reg = 0x03#8 then value else s.envS) ∧ t.envR = (if reg = 0x04#8 then value else s.envR) ∧
    t.sampleRate = (if reg = 0x05#8 then value else s.sampleRate) ∧
    t.sil = (if reg = 0x06#8 ∧ value.getLsbD 0 = true then false else s.sil) ∧
    sameParams s t ∧ samePool s t ∧ sameRam s t ∧ sameRender s t ∧ sameOutside s t

/-- CRD reads the register its number names, reserved bits 0, with no side effect; E_RANGE from 0x09 up; E_ILLEGAL on
port A (R168). -/
def Obligations.CrdReadsOneRegister : Prop :=
  (∀ w : Command, opField w = 0x08#8 → decode w = .crd (f3Field w)) ∧
  (∀ reg : Byte, rejectedOnA (.crd reg)) ∧
  ∀ (reg : Byte) (s : State), s.issuer = .h → ∃ t, exec (.crd reg) s = .next t ∧ sameCore s t ∧
    (reg = 0x00#8 → answeredWith s t .ok
      (0#30 ++ BitVec.ofBool (s.mode.getLsbD 1) ++ BitVec.ofBool (s.mode.getLsbD 0))) ∧
    (reg = 0x01#8 → answeredWith s t .ok s.envA) ∧ (reg = 0x02#8 → answeredWith s t .ok s.envD) ∧
    (reg = 0x03#8 → answeredWith s t .ok s.envS) ∧ (reg = 0x04#8 → answeredWith s t .ok s.envR) ∧
    (reg = 0x05#8 → answeredWith s t .ok s.sampleRate) ∧
    (reg = 0x06#8 → answeredWith s t .ok
      (0#19 ++ BitVec.ofNat 5 s.voices.length ++ 0#7 ++ BitVec.ofBool s.sil)) ∧
    (reg = 0x07#8 → answeredWith s t .ok Config.uniqueId) ∧ (reg = 0x08#8 → answeredWith s t .ok 0x0C021110#32) ∧
    (9 ≤ reg.toNat → answeredWith s t .eRange 0#32)

/-- VRD reads one field of a live voice, 0 for an empty slot, E_RANGE for a selector above 4, which is checked first; no
side effect; E_ILLEGAL on port A (R169). -/
def Obligations.VrdReadsOneField : Prop :=
  (∀ w : Command, opField w = 0x09#8 → decode w = .vrd (f3Field w) (f2Field w)) ∧
  (∀ slot sel : Byte, rejectedOnA (.vrd slot sel)) ∧
  ∀ (slot sel : Byte) (s : State), s.issuer = .h → ∃ t, exec (.vrd slot sel) s = .next t ∧ sameCore s t ∧
    (4 < sel.toNat → answeredWith s t .eRange 0#32) ∧
    (sel.toNat ≤ 4 → s.voices.length ≤ slot.toNat → answeredWith s t .ok 0#32) ∧
    ∀ v, s.voices[slot.toNat]? = some v →
      (sel = 0#8 → answeredWith s t .ok
        (1#1 ++ BitVec.ofBool v.released ++ 0#15 ++ v.note ++ 0#1 ++ v.velocity)) ∧
      (sel = 1#8 → answeredWith s t .ok (v.age.extractLsb' 0 32)) ∧
      (sel = 2#8 → answeredWith s t .ok (v.age.extractLsb' 32 32)) ∧
      (sel = 3#8 → answeredWith s t .ok (v.relAge.extractLsb' 0 32)) ∧
      (sel = 4#8 → answeredWith s t .ok (v.relAge.extractLsb' 32 32))

/-- SIL becomes 1 only through a RENDER on port H with a non-finite sample, and becomes 0 only through a CWR to STATUS
with bit 0 = 1 (or the reset input, which is no command) (R37). -/
def Obligations.SilChangesOnlyAsRuled : Prop :=
  ∀ (i : Instr) (s t : State), exec i s = .next t →
    (s.sil = false → t.sil = true → s.issuer = .h ∧ ∃ c n, i = .render c n ∧ c ≠ 0#8 ∧ mixFaults s n.toNat = true) ∧
    (s.sil = true → t.sil = false → s.issuer = .h ∧ ∃ value, i = .cwr 0x06#8 value ∧ value.getLsbD 0 = true)

/-! ### RENDER (44_renderer.md) -/

/-- Any `C` from 0 to 2 and any `N` from 0 to 4096 is accepted; a larger value answers E_RANGE before anything changes
(R151). -/
def Obligations.RenderChecksBlockBounds : Prop :=
  ∀ (c : Byte) (n : BitVec 16) (s : State), s.issuer = .h → ∃ t, exec (.render c n) s = .next t ∧
    (n.toNat ≤ 4096 ∧ c.toNat ≤ 2 → ∃ data, answeredWith s t .ok data) ∧
    (4096 < n.toNat ∨ 2 < c.toNat → answeredWith s t .eRange 0#32 ∧ sameCore s t)

/-- Every word of an accepted block holds the voices' `mono` values added to +0.0 in pool order, one binary32 addition
each; if any of those sums is not finite, every word is +0.0, SIL is set, and DATA[31] is set, and the RENDER goes on as
normal: the pool is aged and reaped either way. DATA's low bits are the number of voices rendered. Addition and
multiplication never turn a non-finite operand into a finite value (R153, R154, R155, R158). -/
def Obligations.RenderMixesOrFallsSilent : Prop :=
  (∀ (c : Byte) (n : BitVec 16) (s : State), s.issuer = .h → n.toNat ≤ 4096 → c.toNat ≤ 2 →
    ∃ t, exec (.render c n) s = .next t ∧
      (∀ ch i, ch < c.toNat → i < n.toNat →
        readRam (ch * 4096 + i) t = if mixFaults s n.toNat then 0x00000000#32 else mixedSample s i) ∧
      t.sil = (s.sil || (c != 0#8 && mixFaults s n.toNat)) ∧ t.voices = poolAfterBlock s n.toNat ∧
      answeredWith s t .ok
        (BitVec.ofBool (c != 0#8 && mixFaults s n.toNat) ++ 0#26 ++ BitVec.ofNat 5 s.voices.length)) ∧
  ∀ x y : F32, isFinite x = false ∨ isFinite y = false → isFinite (fadd x y) = false ∧ isFinite (fmul x y) = false

/-- RENDER writes no word outside its `N × C` region, and leaves the parameters, the control registers and the outside
alone; BUSY is 0 after it (R159, R150). -/
def Obligations.RenderFrame : Prop :=
  ∀ (c : Byte) (n : BitVec 16) (s : State), s.issuer = .h → n.toNat ≤ 4096 → c.toNat ≤ 2 →
    ∃ t, exec (.render c n) s = .next t ∧
      (∀ a, (∀ ch i, ch < c.toNat → i < n.toNat → a ≠ ch * 4096 + i) → readRam a t = readRam a s) ∧
      sameParams s t ∧ sameControls s t ∧ t.busy = false ∧ sameOutside s t

/-- After the fault check, silenced or not, every voice's age advances by `N`, saturating, and then the released voices
whose gain is +0.0 at the new age go; the survivors keep their order and all else (R156, R157). -/
def Obligations.RenderAgesThenReaps : Prop :=
  ∀ (c : Byte) (n : BitVec 16) (s : State), s.issuer = .h → n.toNat ≤ 4096 → c.toNat ≤ 2 →
    (∃ t, exec (.render c n) s = .next t ∧ t.voices = poolAfterBlock s n.toNat) ∧
    ∀ v : Voice, (v.tick n.toNat).age.toNat = min (v.age.toNat + n.toNat) (2 ^ 64 - 1) ∧
      (v.tick n.toNat).note = v.note ∧ (v.tick n.toNat).velocity = v.velocity ∧
      (v.tick n.toNat).released = v.released ∧ (v.tick n.toNat).relAge = v.relAge

/-- Between a RENDER's latch and its finish, nothing that port A, the host memory port or the host's presentations do
changes the block: the audio, the pool, SIL, the registers and port H's response are those of the RENDER run at once
(R62, R64, R54, R152). That the rest of a RENDER is one step is the model's reading (log entry 9). -/
def Obligations.LatchedRenderIsIsolated : Prop :=
  ∀ (s : State) (w : Command) (c : Byte) (n : BitVec 16) (ms : List Move), s.render = none → fetch .h s = some w →
    decode w = .render c n → n.toNat ≤ 4096 → c.toNat ≤ 2 → (∀ m ∈ ms, awayFromPortH m) →
    s.agenda = .latch :: (ms ++ [.run .h]) →
    ∃ t t₀, Host.Core.run core (ms.length + 2) s = .next t ∧ step { s with agenda := [.run .h] } = .next t₀ ∧
      t.ram = t₀.ram ∧ t.voices = t₀.voices ∧ t.sil = t₀.sil ∧ sameControls t₀ t ∧ t.portH = t₀.portH ∧
      t.busy = false ∧ t₀.busy = false

/-- A voice's `mono` value is what OSC_VOICE's pseudocode computes, and its gain what ENV's computes, both written out
there in one piece with their constants: the time index, the phase, the cut, the terms in ascending order over the snapshot,
the attack and decay ramps and both release time bases (R110 to R117, R125 to R130). -/
def Obligations.SampleFollowsItsPseudocode : Prop :=
  (∀ (s : State) (snap : Vector F32 17) (v : Voice) (i : Nat), monoSample s snap v i = monoBySpec s snap v i) ∧
    ∀ (s : State) (t relAge : Nat) (released : Bool), envelope s t released relAge = gainBySpec s t released relAge

/-- One voice's contribution adds its `mono` to every channel's word of each sample, and reaches no other word (R118,
with R110 and R119). -/
def Obligations.OscillatorAddsMonoToEveryChannel : Prop :=
  ∀ (s : State) (job : RenderJob) (m : Memory) (v : Voice), job.samples.toNat ≤ 4096 →
    (∀ c i, c < job.channels.toNat → i < job.samples.toNat →
      (oscVoice s job m v).word s.epoch (c * 4096 + i) =
        fadd (m.word s.epoch (c * 4096 + i)) (monoSample s job.snap v i)) ∧
    ∀ a, (∀ c i, c < job.channels.toNat → i < job.samples.toNat → a ≠ c * 4096 + i) →
      (oscVoice s job m v).word s.epoch a = m.word s.epoch a

/-! ### Oscillator bank and envelope properties -/

/-- With every partial gain ±0.0, every word of the block is +0.0, whatever the pitch, velocity, amplitude and envelope
(R122). -/
def Obligations.ZeroGainsAreSilent : Prop :=
  ∀ (c : Byte) (n : BitVec 16) (s : State), s.issuer = .h → n.toNat ≤ 4096 → c.toNat ≤ 2 →
    (∀ (k : Nat) (h : k < 17), 1 ≤ k → s.params[k] = 0x00000000#32 ∨ s.params[k] = 0x80000000#32) →
    ∃ t, exec (.render c n) s = .next t ∧
      ∀ ch i, ch < c.toNat → i < n.toNat → readRam (ch * 4096 + i) t = 0x00000000#32

/-- A harmonic at or above Nyquist contributes nothing: forcing its gain to anything leaves every sample bit-identical
(R123). -/
def Obligations.SkippedHarmonicIsNeverRead : Prop :=
  ∀ (s : State) (snap : Vector F32 17) (v : Voice) (i n : Nat) (gain : F32) (h : n < 17), 1 ≤ n →
    skipped (freqRom v.note) n (nyquist s.sampleRate) = true →
    monoSample s (snap.set n gain) v i = monoSample s snap v i

/-- The harmonic sum is never -0.0 (R116). -/
def Obligations.HarmonicSumIsNeverMinusZero : Prop :=
  ∀ (snap : Vector F32 17) (vf pitch half phi : F32), harmonicSum snap vf pitch half phi ≠ 0x80000000#32

/-- The surviving harmonics are always 1 to some K (R124). -/
def Obligations.SurvivorsAreAnInitialRun : Prop :=
  ∀ (note : BitVec 7) (half : F32), ∃ k, k ≤ 16 ∧ survivors (freqRom note) half = (List.range k).map (· + 1)

/-- A sample rate that is not above zero skips every harmonic; +inf and NaN skip none (R114). -/
def Obligations.RateDecidesTheCut : Prop :=
  ∀ (note : BitVec 7) (n : Nat) (sr : F32), 1 ≤ n → n ≤ 16 →
    (fge 0x00000000#32 sr = true → skipped (freqRom note) n (nyquist sr) = true) ∧
    (sr = 0x7F800000#32 → skipped (freqRom note) n (nyquist sr) = false) ∧
    (orderKey sr = none → skipped (freqRom note) n (nyquist sr) = false)

/-- Every entry of FREQ_ROM lies nearer to 440 · 2^((n-69)/12) than any other binary32 value: the real value lies strictly
between the midpoints to its neighbours, compared by twelfth powers; notes 69 and 81 are 440.0 and 880.0, and entries
strictly rise (R94). -/
def Obligations.FreqRomIsNearest : Prop :=
  (∀ note : BitVec 7, ∃ k below above, finiteUnits (freqRom note) = some k ∧
      finiteUnits (freqRom note - 1#32) = some below ∧ finiteUnits (freqRom note + 1#32) = some above ∧
      (k + below) ^ 12 * 2 ^ 69 < (440 * 2 ^ 150) ^ 12 * 2 ^ note.toNat ∧
      (440 * 2 ^ 150) ^ 12 * 2 ^ note.toNat < (k + above) ^ 12 * 2 ^ 69) ∧
    freqRom 69#7 = 0x43DC0000#32 ∧ freqRom 81#7 = 0x445C0000#32 ∧
    ∀ note : BitVec 7, note.toNat < 127 → fgt (freqRom (note + 1#7)) (freqRom note) = true

/-- With `A` = `D` = 0 and `S` = 1.0 the gain of an unreleased voice is exactly 1.0, and multiplying by 1.0 is exact
(R132). -/
def Obligations.IdentityEnvelopeChangesNothing : Prop :=
  (∀ (s : State) (t relAge : Nat), s.envA = 0#32 → s.envD = 0#32 → s.envS = 0x3F800000#32 →
      envelope s t false relAge = 0x3F800000#32) ∧
    ∀ x : F32, orderKey x ≠ none → fmul x 0x3F800000#32 = x

/-- An unreleased voice starts at +0.0 when there is an attack and never passes 1.0 in it, is at exactly 1.0 where the
decay begins (for a finite sustain level), and holds `S`'s own bits from A + D on, a sum that does not wrap (R125 to
R128). -/
def Obligations.EnvelopeMeetsItsStageEnds : Prop :=
  ∀ (s : State) (relAge : Nat),
    (s.envA ≠ 0#32 → envelope s 0 false relAge = 0x00000000#32) ∧
    (∀ t, t < s.envA.toNat → fge 0x3F800000#32 (envelope s t false relAge) = true) ∧
    (s.envD ≠ 0#32 → isFinite s.envS = true → envelope s s.envA.toNat false relAge = 0x3F800000#32) ∧
    ∀ t, s.envA.toNat + s.envD.toNat ≤ t → envelope s t false relAge = s.envS

/-- A released voice's gain is RELEASE of its total age under REL_MODE 0, whatever its `rel_age`, and RELEASE of the samples
since its release under REL_MODE 1, where at the moment of release it is `S` for a finite `S` above zero and R > 0 (R129,
R130). -/
def Obligations.ReleaseTimeFollowsRelMode : Prop :=
  ∀ s : State,
    (s.mode.getLsbD 0 = false → ∀ t relAge : Nat, envelope s t true relAge = releaseGain s t) ∧
    (s.mode.getLsbD 0 = true → ∀ u relAge : Nat, envelope s (relAge + u) true relAge = releaseGain s u) ∧
    (s.mode.getLsbD 0 = true → s.envR ≠ 0#32 → isFinite s.envS = true → fgt s.envS 0x00000000#32 = true →
      ∀ relAge : Nat, envelope s relAge true relAge = s.envS)

/-- The release gain is never NaN and never negative, and `R` = 0 gives +0.0 at once (R130). -/
def Obligations.ReleaseGainIsNeverNegative : Prop :=
  ∀ (s : State) (u : Nat), fge (releaseGain s u) 0x00000000#32 = true ∧ releaseGain s u ≠ 0x80000000#32 ∧
    (s.envR = 0#32 → releaseGain s u = 0x00000000#32)

/-- The gain lies in [0, 1] whenever `S` does (R133). -/
def Obligations.EnvelopeStaysInUnitRange : Prop :=
  ∀ (s : State) (t relAge : Nat) (released : Bool), fge s.envS 0x00000000#32 = true →
    fge 0x3F800000#32 s.envS = true →
    fge (envelope s t released relAge) 0x00000000#32 = true ∧ fge 0x3F800000#32 (envelope s t released relAge) = true

/-- For a sustain level that is not negative, the release gain is +0.0 from `u` = 2R on, whenever 2R < 2^24 (R134; that a
negative level is left out is log entry 10). -/
def Obligations.ReleaseEndsByTwiceItsLength : Prop :=
  ∀ (s : State) (u : Nat), fge s.envS 0x00000000#32 = true → 2 * s.envR.toNat < 2 ^ 24 → 2 * s.envR.toNat ≤ u →
    releaseGain s u = 0x00000000#32

/-- The velocity factor is 1.0 at 127, +0.0 at 0, and lies in [0, 1] (R111). -/
def Obligations.VelocityFactorRange : Prop :=
  velocityFactor 127#7 = 0x3F800000#32 ∧ velocityFactor 0#7 = 0x00000000#32 ∧
    ∀ velocity : BitVec 7, fge (velocityFactor velocity) 0x00000000#32 = true ∧
      fge 0x3F800000#32 (velocityFactor velocity) = true

/-! ### The host-side text functions (46_host_metadata.md) -/

/-- The labels of the 17 parameters, and no label or text past them; `display_text` writes a percentage with two places,
and NaN by its name (R187, R188). -/
def Obligations.HostTextFollowsItsRules : Prop :=
  paramName 0 = "Oscillator A Amplitude" ∧
    (∀ n, 1 ≤ n → n ≤ 16 → paramName n = "Oscillator A Partial " ++ toString n) ∧
    (∀ n, 17 ≤ n → paramName n = "") ∧ (∀ (index : Byte) (s : State), 17 ≤ index.toNat → displayText index s = "") ∧
    (∀ (k : Nat) (h : k < 17) (s : State), displayText (BitVec.ofNat 8 k) s = percentOf s.params[k]) ∧
    percentOf 0x3F400000#32 = "75.00%" ∧ percentOf 0x3F800000#32 = "100.00%" ∧ percentOf 0x80000000#32 = "0.00%" ∧
    percentOf 0x7F800000#32 = "inf%" ∧ percentOf 0xFF800000#32 = "-inf%" ∧
    ∀ v : F32, orderKey v = none → percentOf v = "NaN%"

/-! ### Arithmetic (00_scope.md R9) -/

/-- `+f`, `-f`, `*f` and `/f` of finite operands, and `cvt32`, are the exact result rounded to nearest, ties to even: finite
below the overflow threshold, the infinity of its sign from there on; with the signs that results and zeros take (R9, G1).
Values are measured in units of 2^-149. -/
def Obligations.ArithmeticRoundsToNearestEven : Prop :=
  (∀ (a b : F32) (ka kb : Int), finiteUnits a = some ka → finiteUnits b = some kb →
    roundsTo (fadd a b) (ka + kb) 1 ∧ roundsTo (fsub a b) (ka - kb) 1 ∧ roundsTo (fmul a b) (ka * kb) (2 ^ 149) ∧
    (kb ≠ 0 → roundsTo (fdiv a b) (ka * 2 ^ 149) kb ∧ signBit (fdiv a b) = (signBit a ^^ signBit b)) ∧
    signBit (fmul a b) = (signBit a ^^ signBit b) ∧
    (ka + kb = 0 → fadd a b = zeroOf (signBit a && signBit b)) ∧
    (ka - kb = 0 → fsub a b = zeroOf (signBit a && !signBit b))) ∧
  ∀ n : Nat, roundsTo (cvt32 n) (n * 2 ^ 149) 1 ∧ signBit (cvt32 n) = false

/-- NaNs and infinities in arithmetic and comparison, division by zero, and which patterns are finite and what they are
worth (R9, G1). -/
def Obligations.ArithmeticSpecialValues : Prop :=
  (∀ x : F32, x.extractLsb' 23 8 ≠ 0xFF#8 → finiteUnits x = some ((if signBit x then -1 else 1) *
    (if x.extractLsb' 23 8 = 0#8 then ((x.extractLsb' 0 23).toNat : Int)
      else (2 ^ 23 + ((x.extractLsb' 0 23).toNat : Int)) * 2 ^ ((x.extractLsb' 23 8).toNat - 1)))) ∧
  (∀ x : F32, isFinite x = false ↔ isNanPattern x ∨ ∃ s, x = infOf s) ∧
  (∀ a b : F32, isNanPattern a ∨ isNanPattern b →
    isNanPattern (fadd a b) ∧ isNanPattern (fsub a b) ∧ isNanPattern (fmul a b) ∧ isNanPattern (fdiv a b) ∧
      fge a b = false ∧ fgt a b = false) ∧
  (∀ s t : Bool, (if s = t then fadd (infOf s) (infOf t) = infOf s else isNanPattern (fadd (infOf s) (infOf t))) ∧
    (if s = t then isNanPattern (fsub (infOf s) (infOf t)) else fsub (infOf s) (infOf t) = infOf s) ∧
    fmul (infOf s) (infOf t) = infOf (s ^^ t) ∧ isNanPattern (fdiv (infOf s) (infOf t)) ∧
    fge (infOf s) (infOf t) = (!s || t) ∧ fgt (infOf s) (infOf t) = (!s && t)) ∧
  (∀ (s : Bool) (x : F32) (k : Int), finiteUnits x = some k →
    fadd (infOf s) x = infOf s ∧ fadd x (infOf s) = infOf s ∧ fsub (infOf s) x = infOf s ∧
    fsub x (infOf s) = infOf (!s) ∧ fdiv (infOf s) x = infOf (s ^^ signBit x) ∧
    fdiv x (infOf s) = zeroOf (signBit x ^^ s) ∧
    (if k = 0 then isNanPattern (fmul (infOf s) x) ∧ isNanPattern (fmul x (infOf s))
      else fmul (infOf s) x = infOf (s ^^ signBit x) ∧ fmul x (infOf s) = infOf (s ^^ signBit x)) ∧
    fge (infOf s) x = !s ∧ fgt (infOf s) x = !s ∧ fge x (infOf s) = s ∧ fgt x (infOf s) = s) ∧
  ∀ (a b : F32) (ka kb : Int), finiteUnits a = some ka → finiteUnits b = some kb →
    (fge a b = true ↔ kb ≤ ka) ∧ (fgt a b = true ↔ kb < ka) ∧
    (kb = 0 → if ka = 0 then isNanPattern (fdiv a b) else fdiv a b = infOf (signBit a ^^ signBit b))

/-- `SIN32`'s four required properties (R120). -/
def Obligations.SineMeetsItsFourProperties : Prop :=
  sin32 0x00000000#32 = 0x00000000#32 ∧ sin32 0x80000000#32 = 0x80000000#32 ∧
    (∀ x : F32, orderKey (sin32 x) = none ↔ isFinite x = false) ∧
    (∀ x : F32, isFinite x = true →
      fge 0x3F800000#32 (sin32 x) = true ∧ fge (sin32 x) 0xBF800000#32 = true) ∧
    ∀ x : F32, isFinite x = true → sin32 (fneg x) = fneg (sin32 x)

/-- Where the enclosure decides, `SIN32(x)` is a nearest binary32 value to the real sine of x, whatever the size of x
(R120; log entry 1). -/
def Obligations.SineIsCorrectlyRounded : Prop :=
  ∀ (x : F32) (kx : Int), finiteUnits x = some kx → sineLow kx.natAbs = sineHigh kx.natAbs →
    ∃ ky : Int, finiteUnits (sin32 x) = some ky ∧ ∀ (z : F32) (kz : Int), finiteUnits z = some kz →
      |(ky : ℝ) / 2 ^ 149 - Real.sin ((kx : ℝ) / 2 ^ 149)| ≤ |(kz : ℝ) / 2 ^ 149 - Real.sin ((kx : ℝ) / 2 ^ 149)|
end

