-- ==== Sys2Proof/Laws/State.lean ====
section
/-! SUPPORT. One lemma per field for each operation that updates the state: what it leaves as it was, and what it
writes. No later proof unfolds a record update. -/

namespace Sys2Proof.Machine

/-! ### setPort -/

@[simp] theorem setPort_params (s : State) (p : PortId) (c : CommandPort) : (s.setPort p c).params = s.params := by cases p <;> rfl
@[simp] theorem setPort_voices (s : State) (p : PortId) (c : CommandPort) : (s.setPort p c).voices = s.voices := by cases p <;> rfl
@[simp] theorem setPort_mode (s : State) (p : PortId) (c : CommandPort) : (s.setPort p c).mode = s.mode := by cases p <;> rfl
@[simp] theorem setPort_envA (s : State) (p : PortId) (c : CommandPort) : (s.setPort p c).envA = s.envA := by cases p <;> rfl
@[simp] theorem setPort_envD (s : State) (p : PortId) (c : CommandPort) : (s.setPort p c).envD = s.envD := by cases p <;> rfl
@[simp] theorem setPort_envS (s : State) (p : PortId) (c : CommandPort) : (s.setPort p c).envS = s.envS := by cases p <;> rfl
@[simp] theorem setPort_envR (s : State) (p : PortId) (c : CommandPort) : (s.setPort p c).envR = s.envR := by cases p <;> rfl
@[simp] theorem setPort_sampleRate (s : State) (p : PortId) (c : CommandPort) : (s.setPort p c).sampleRate = s.sampleRate := by cases p <;> rfl
@[simp] theorem setPort_sil (s : State) (p : PortId) (c : CommandPort) : (s.setPort p c).sil = s.sil := by cases p <;> rfl
@[simp] theorem setPort_ram (s : State) (p : PortId) (c : CommandPort) : (s.setPort p c).ram = s.ram := by cases p <;> rfl
@[simp] theorem setPort_render (s : State) (p : PortId) (c : CommandPort) : (s.setPort p c).render = s.render := by cases p <;> rfl
@[simp] theorem setPort_memPort (s : State) (p : PortId) (c : CommandPort) : (s.setPort p c).memPort = s.memPort := by cases p <;> rfl
@[simp] theorem setPort_issuer (s : State) (p : PortId) (c : CommandPort) : (s.setPort p c).issuer = s.issuer := by cases p <;> rfl
@[simp] theorem setPort_agenda (s : State) (p : PortId) (c : CommandPort) : (s.setPort p c).agenda = s.agenda := by cases p <;> rfl
@[simp] theorem setPort_epoch (s : State) (p : PortId) (c : CommandPort) : (s.setPort p c).epoch = s.epoch := by cases p <;> rfl

@[simp] theorem setPort_port_same (s : State) (p : PortId) (c : CommandPort) : (s.setPort p c).port p = c := by
  cases p <;> rfl

theorem setPort_port_other (s : State) (p q : PortId) (c : CommandPort) (h : q ≠ p) :
    (s.setPort p c).port q = s.port q := by
  cases p <;> cases q <;> first | rfl | exact absurd rfl h

/-! ### respond -/

@[simp] theorem respond_params (st : Status) (d : Word) (s : State) : (respond st d s).params = s.params := by simp [respond]
@[simp] theorem respond_voices (st : Status) (d : Word) (s : State) : (respond st d s).voices = s.voices := by simp [respond]
@[simp] theorem respond_mode (st : Status) (d : Word) (s : State) : (respond st d s).mode = s.mode := by simp [respond]
@[simp] theorem respond_envA (st : Status) (d : Word) (s : State) : (respond st d s).envA = s.envA := by simp [respond]
@[simp] theorem respond_envD (st : Status) (d : Word) (s : State) : (respond st d s).envD = s.envD := by simp [respond]
@[simp] theorem respond_envS (st : Status) (d : Word) (s : State) : (respond st d s).envS = s.envS := by simp [respond]
@[simp] theorem respond_envR (st : Status) (d : Word) (s : State) : (respond st d s).envR = s.envR := by simp [respond]
@[simp] theorem respond_sampleRate (st : Status) (d : Word) (s : State) : (respond st d s).sampleRate = s.sampleRate := by simp [respond]
@[simp] theorem respond_sil (st : Status) (d : Word) (s : State) : (respond st d s).sil = s.sil := by simp [respond]
@[simp] theorem respond_ram (st : Status) (d : Word) (s : State) : (respond st d s).ram = s.ram := by simp [respond]
@[simp] theorem respond_render (st : Status) (d : Word) (s : State) : (respond st d s).render = s.render := by simp [respond]
@[simp] theorem respond_memPort (st : Status) (d : Word) (s : State) : (respond st d s).memPort = s.memPort := by simp [respond]
@[simp] theorem respond_issuer (st : Status) (d : Word) (s : State) : (respond st d s).issuer = s.issuer := by simp [respond]
@[simp] theorem respond_agenda (st : Status) (d : Word) (s : State) : (respond st d s).agenda = s.agenda := by simp [respond]
@[simp] theorem respond_epoch (st : Status) (d : Word) (s : State) : (respond st d s).epoch = s.epoch := by simp [respond]

@[simp] theorem respond_port_issuer (st : Status) (d : Word) (s : State) :
    (respond st d s).port s.issuer = (s.port s.issuer).answered (responseWord st d) := by simp [respond]

theorem respond_port_other (st : Status) (d : Word) (s : State) (p : PortId) (h : p ≠ s.issuer) :
    (respond st d s).port p = s.port p := setPort_port_other _ _ _ _ h

/-! ### writeParam -/

@[simp] theorem writeParam_params (i : Fin 17) (v : F32) (s : State) : (writeParam i v s).params = s.params.set i v := rfl
@[simp] theorem writeParam_voices (i : Fin 17) (v : F32) (s : State) : (writeParam i v s).voices = s.voices := rfl
@[simp] theorem writeParam_mode (i : Fin 17) (v : F32) (s : State) : (writeParam i v s).mode = s.mode := rfl
@[simp] theorem writeParam_envA (i : Fin 17) (v : F32) (s : State) : (writeParam i v s).envA = s.envA := rfl
@[simp] theorem writeParam_envD (i : Fin 17) (v : F32) (s : State) : (writeParam i v s).envD = s.envD := rfl
@[simp] theorem writeParam_envS (i : Fin 17) (v : F32) (s : State) : (writeParam i v s).envS = s.envS := rfl
@[simp] theorem writeParam_envR (i : Fin 17) (v : F32) (s : State) : (writeParam i v s).envR = s.envR := rfl
@[simp] theorem writeParam_sampleRate (i : Fin 17) (v : F32) (s : State) : (writeParam i v s).sampleRate = s.sampleRate := rfl
@[simp] theorem writeParam_sil (i : Fin 17) (v : F32) (s : State) : (writeParam i v s).sil = s.sil := rfl
@[simp] theorem writeParam_ram (i : Fin 17) (v : F32) (s : State) : (writeParam i v s).ram = s.ram := rfl
@[simp] theorem writeParam_render (i : Fin 17) (v : F32) (s : State) : (writeParam i v s).render = s.render := rfl
@[simp] theorem writeParam_portH (i : Fin 17) (v : F32) (s : State) : (writeParam i v s).portH = s.portH := rfl
@[simp] theorem writeParam_portA (i : Fin 17) (v : F32) (s : State) : (writeParam i v s).portA = s.portA := rfl
@[simp] theorem writeParam_memPort (i : Fin 17) (v : F32) (s : State) : (writeParam i v s).memPort = s.memPort := rfl
@[simp] theorem writeParam_issuer (i : Fin 17) (v : F32) (s : State) : (writeParam i v s).issuer = s.issuer := rfl
@[simp] theorem writeParam_agenda (i : Fin 17) (v : F32) (s : State) : (writeParam i v s).agenda = s.agenda := rfl
@[simp] theorem writeParam_epoch (i : Fin 17) (v : F32) (s : State) : (writeParam i v s).epoch = s.epoch := rfl

/-! ### writeRam -/

@[simp] theorem writeRam_params (a : Nat) (v : Word) (s : State) : (writeRam a v s).params = s.params := by unfold writeRam; split <;> rfl
@[simp] theorem writeRam_voices (a : Nat) (v : Word) (s : State) : (writeRam a v s).voices = s.voices := by unfold writeRam; split <;> rfl
@[simp] theorem writeRam_mode (a : Nat) (v : Word) (s : State) : (writeRam a v s).mode = s.mode := by unfold writeRam; split <;> rfl
@[simp] theorem writeRam_envA (a : Nat) (v : Word) (s : State) : (writeRam a v s).envA = s.envA := by unfold writeRam; split <;> rfl
@[simp] theorem writeRam_envD (a : Nat) (v : Word) (s : State) : (writeRam a v s).envD = s.envD := by unfold writeRam; split <;> rfl
@[simp] theorem writeRam_envS (a : Nat) (v : Word) (s : State) : (writeRam a v s).envS = s.envS := by unfold writeRam; split <;> rfl
@[simp] theorem writeRam_envR (a : Nat) (v : Word) (s : State) : (writeRam a v s).envR = s.envR := by unfold writeRam; split <;> rfl
@[simp] theorem writeRam_sampleRate (a : Nat) (v : Word) (s : State) : (writeRam a v s).sampleRate = s.sampleRate := by unfold writeRam; split <;> rfl
@[simp] theorem writeRam_sil (a : Nat) (v : Word) (s : State) : (writeRam a v s).sil = s.sil := by unfold writeRam; split <;> rfl
@[simp] theorem writeRam_ram (a : Nat) (v : Word) (s : State) : (writeRam a v s).ram = if a < Config.ramWords then s.ram.put a v else s.ram := by unfold writeRam; split <;> rfl
@[simp] theorem writeRam_render (a : Nat) (v : Word) (s : State) : (writeRam a v s).render = s.render := by unfold writeRam; split <;> rfl
@[simp] theorem writeRam_portH (a : Nat) (v : Word) (s : State) : (writeRam a v s).portH = s.portH := by unfold writeRam; split <;> rfl
@[simp] theorem writeRam_portA (a : Nat) (v : Word) (s : State) : (writeRam a v s).portA = s.portA := by unfold writeRam; split <;> rfl
@[simp] theorem writeRam_memPort (a : Nat) (v : Word) (s : State) : (writeRam a v s).memPort = s.memPort := by unfold writeRam; split <;> rfl
@[simp] theorem writeRam_issuer (a : Nat) (v : Word) (s : State) : (writeRam a v s).issuer = s.issuer := by unfold writeRam; split <;> rfl
@[simp] theorem writeRam_agenda (a : Nat) (v : Word) (s : State) : (writeRam a v s).agenda = s.agenda := by unfold writeRam; split <;> rfl
@[simp] theorem writeRam_epoch (a : Nat) (v : Word) (s : State) : (writeRam a v s).epoch = s.epoch := by unfold writeRam; split <;> rfl

/-! ### renderBegin -/

@[simp] theorem renderBegin_params (c : Byte) (n : BitVec 16) (s : State) : (renderBegin c n s).params = s.params := rfl
@[simp] theorem renderBegin_voices (c : Byte) (n : BitVec 16) (s : State) : (renderBegin c n s).voices = s.voices := rfl
@[simp] theorem renderBegin_mode (c : Byte) (n : BitVec 16) (s : State) : (renderBegin c n s).mode = s.mode := rfl
@[simp] theorem renderBegin_envA (c : Byte) (n : BitVec 16) (s : State) : (renderBegin c n s).envA = s.envA := rfl
@[simp] theorem renderBegin_envD (c : Byte) (n : BitVec 16) (s : State) : (renderBegin c n s).envD = s.envD := rfl
@[simp] theorem renderBegin_envS (c : Byte) (n : BitVec 16) (s : State) : (renderBegin c n s).envS = s.envS := rfl
@[simp] theorem renderBegin_envR (c : Byte) (n : BitVec 16) (s : State) : (renderBegin c n s).envR = s.envR := rfl
@[simp] theorem renderBegin_sampleRate (c : Byte) (n : BitVec 16) (s : State) : (renderBegin c n s).sampleRate = s.sampleRate := rfl
@[simp] theorem renderBegin_sil (c : Byte) (n : BitVec 16) (s : State) : (renderBegin c n s).sil = s.sil := rfl
@[simp] theorem renderBegin_ram (c : Byte) (n : BitVec 16) (s : State) : (renderBegin c n s).ram = s.ram := rfl
@[simp] theorem renderBegin_render (c : Byte) (n : BitVec 16) (s : State) : (renderBegin c n s).render = some ⟨s.params, c, n⟩ := rfl
@[simp] theorem renderBegin_portH (c : Byte) (n : BitVec 16) (s : State) : (renderBegin c n s).portH = s.portH := rfl
@[simp] theorem renderBegin_portA (c : Byte) (n : BitVec 16) (s : State) : (renderBegin c n s).portA = s.portA := rfl
@[simp] theorem renderBegin_memPort (c : Byte) (n : BitVec 16) (s : State) : (renderBegin c n s).memPort = s.memPort := rfl
@[simp] theorem renderBegin_issuer (c : Byte) (n : BitVec 16) (s : State) : (renderBegin c n s).issuer = s.issuer := rfl
@[simp] theorem renderBegin_agenda (c : Byte) (n : BitVec 16) (s : State) : (renderBegin c n s).agenda = s.agenda := rfl
@[simp] theorem renderBegin_epoch (c : Byte) (n : BitVec 16) (s : State) : (renderBegin c n s).epoch = s.epoch := rfl

/-! ### renderEnd -/

@[simp] theorem renderEnd_params (s : State) : (renderEnd s).params = s.params := rfl
@[simp] theorem renderEnd_voices (s : State) : (renderEnd s).voices = s.voices := rfl
@[simp] theorem renderEnd_mode (s : State) : (renderEnd s).mode = s.mode := rfl
@[simp] theorem renderEnd_envA (s : State) : (renderEnd s).envA = s.envA := rfl
@[simp] theorem renderEnd_envD (s : State) : (renderEnd s).envD = s.envD := rfl
@[simp] theorem renderEnd_envS (s : State) : (renderEnd s).envS = s.envS := rfl
@[simp] theorem renderEnd_envR (s : State) : (renderEnd s).envR = s.envR := rfl
@[simp] theorem renderEnd_sampleRate (s : State) : (renderEnd s).sampleRate = s.sampleRate := rfl
@[simp] theorem renderEnd_sil (s : State) : (renderEnd s).sil = s.sil := rfl
@[simp] theorem renderEnd_ram (s : State) : (renderEnd s).ram = s.ram := rfl
@[simp] theorem renderEnd_render (s : State) : (renderEnd s).render = none := rfl
@[simp] theorem renderEnd_portH (s : State) : (renderEnd s).portH = s.portH := rfl
@[simp] theorem renderEnd_portA (s : State) : (renderEnd s).portA = s.portA := rfl
@[simp] theorem renderEnd_memPort (s : State) : (renderEnd s).memPort = s.memPort := rfl
@[simp] theorem renderEnd_issuer (s : State) : (renderEnd s).issuer = s.issuer := rfl
@[simp] theorem renderEnd_agenda (s : State) : (renderEnd s).agenda = s.agenda := rfl
@[simp] theorem renderEnd_epoch (s : State) : (renderEnd s).epoch = s.epoch := rfl

/-! ### silence -/

@[simp] theorem silence_params (job : RenderJob) (m : Memory) (s : State) : (silence job m s).params = s.params := rfl
@[simp] theorem silence_voices (job : RenderJob) (m : Memory) (s : State) : (silence job m s).voices = s.voices := rfl
@[simp] theorem silence_mode (job : RenderJob) (m : Memory) (s : State) : (silence job m s).mode = s.mode := rfl
@[simp] theorem silence_envA (job : RenderJob) (m : Memory) (s : State) : (silence job m s).envA = s.envA := rfl
@[simp] theorem silence_envD (job : RenderJob) (m : Memory) (s : State) : (silence job m s).envD = s.envD := rfl
@[simp] theorem silence_envS (job : RenderJob) (m : Memory) (s : State) : (silence job m s).envS = s.envS := rfl
@[simp] theorem silence_envR (job : RenderJob) (m : Memory) (s : State) : (silence job m s).envR = s.envR := rfl
@[simp] theorem silence_sampleRate (job : RenderJob) (m : Memory) (s : State) : (silence job m s).sampleRate = s.sampleRate := rfl
@[simp] theorem silence_sil (job : RenderJob) (m : Memory) (s : State) : (silence job m s).sil = true := rfl
@[simp] theorem silence_ram (job : RenderJob) (m : Memory) (s : State) : (silence job m s).ram = m.zero (region job) := rfl
@[simp] theorem silence_render (job : RenderJob) (m : Memory) (s : State) : (silence job m s).render = s.render := rfl
@[simp] theorem silence_portH (job : RenderJob) (m : Memory) (s : State) : (silence job m s).portH = s.portH := rfl
@[simp] theorem silence_portA (job : RenderJob) (m : Memory) (s : State) : (silence job m s).portA = s.portA := rfl
@[simp] theorem silence_memPort (job : RenderJob) (m : Memory) (s : State) : (silence job m s).memPort = s.memPort := rfl
@[simp] theorem silence_issuer (job : RenderJob) (m : Memory) (s : State) : (silence job m s).issuer = s.issuer := rfl
@[simp] theorem silence_agenda (job : RenderJob) (m : Memory) (s : State) : (silence job m s).agenda = s.agenda := rfl
@[simp] theorem silence_epoch (job : RenderJob) (m : Memory) (s : State) : (silence job m s).epoch = s.epoch := rfl

/-! ### vpTick -/

@[simp] theorem vpTick_params (n : Nat) (s : State) : (vpTick n s).params = s.params := rfl
@[simp] theorem vpTick_voices (n : Nat) (s : State) : (vpTick n s).voices = s.voices.map (·.tick n) := rfl
@[simp] theorem vpTick_mode (n : Nat) (s : State) : (vpTick n s).mode = s.mode := rfl
@[simp] theorem vpTick_envA (n : Nat) (s : State) : (vpTick n s).envA = s.envA := rfl
@[simp] theorem vpTick_envD (n : Nat) (s : State) : (vpTick n s).envD = s.envD := rfl
@[simp] theorem vpTick_envS (n : Nat) (s : State) : (vpTick n s).envS = s.envS := rfl
@[simp] theorem vpTick_envR (n : Nat) (s : State) : (vpTick n s).envR = s.envR := rfl
@[simp] theorem vpTick_sampleRate (n : Nat) (s : State) : (vpTick n s).sampleRate = s.sampleRate := rfl
@[simp] theorem vpTick_sil (n : Nat) (s : State) : (vpTick n s).sil = s.sil := rfl
@[simp] theorem vpTick_ram (n : Nat) (s : State) : (vpTick n s).ram = s.ram := rfl
@[simp] theorem vpTick_render (n : Nat) (s : State) : (vpTick n s).render = s.render := rfl
@[simp] theorem vpTick_portH (n : Nat) (s : State) : (vpTick n s).portH = s.portH := rfl
@[simp] theorem vpTick_portA (n : Nat) (s : State) : (vpTick n s).portA = s.portA := rfl
@[simp] theorem vpTick_memPort (n : Nat) (s : State) : (vpTick n s).memPort = s.memPort := rfl
@[simp] theorem vpTick_issuer (n : Nat) (s : State) : (vpTick n s).issuer = s.issuer := rfl
@[simp] theorem vpTick_agenda (n : Nat) (s : State) : (vpTick n s).agenda = s.agenda := rfl
@[simp] theorem vpTick_epoch (n : Nat) (s : State) : (vpTick n s).epoch = s.epoch := rfl

/-! ### vpReap -/

@[simp] theorem vpReap_params (s : State) : (vpReap s).params = s.params := rfl
@[simp] theorem vpReap_voices (s : State) : (vpReap s).voices = s.voices.filter fun v => !reapable s v := rfl
@[simp] theorem vpReap_mode (s : State) : (vpReap s).mode = s.mode := rfl
@[simp] theorem vpReap_envA (s : State) : (vpReap s).envA = s.envA := rfl
@[simp] theorem vpReap_envD (s : State) : (vpReap s).envD = s.envD := rfl
@[simp] theorem vpReap_envS (s : State) : (vpReap s).envS = s.envS := rfl
@[simp] theorem vpReap_envR (s : State) : (vpReap s).envR = s.envR := rfl
@[simp] theorem vpReap_sampleRate (s : State) : (vpReap s).sampleRate = s.sampleRate := rfl
@[simp] theorem vpReap_sil (s : State) : (vpReap s).sil = s.sil := rfl
@[simp] theorem vpReap_ram (s : State) : (vpReap s).ram = s.ram := rfl
@[simp] theorem vpReap_render (s : State) : (vpReap s).render = s.render := rfl
@[simp] theorem vpReap_portH (s : State) : (vpReap s).portH = s.portH := rfl
@[simp] theorem vpReap_portA (s : State) : (vpReap s).portA = s.portA := rfl
@[simp] theorem vpReap_memPort (s : State) : (vpReap s).memPort = s.memPort := rfl
@[simp] theorem vpReap_issuer (s : State) : (vpReap s).issuer = s.issuer := rfl
@[simp] theorem vpReap_agenda (s : State) : (vpReap s).agenda = s.agenda := rfl
@[simp] theorem vpReap_epoch (s : State) : (vpReap s).epoch = s.epoch := rfl

/-! ### presentCommand -/

@[simp] theorem presentCommand_params (p : PortId) (w : Command) (s : State) : (presentCommand p w s).params = s.params := by simp [presentCommand]
@[simp] theorem presentCommand_voices (p : PortId) (w : Command) (s : State) : (presentCommand p w s).voices = s.voices := by simp [presentCommand]
@[simp] theorem presentCommand_mode (p : PortId) (w : Command) (s : State) : (presentCommand p w s).mode = s.mode := by simp [presentCommand]
@[simp] theorem presentCommand_envA (p : PortId) (w : Command) (s : State) : (presentCommand p w s).envA = s.envA := by simp [presentCommand]
@[simp] theorem presentCommand_envD (p : PortId) (w : Command) (s : State) : (presentCommand p w s).envD = s.envD := by simp [presentCommand]
@[simp] theorem presentCommand_envS (p : PortId) (w : Command) (s : State) : (presentCommand p w s).envS = s.envS := by simp [presentCommand]
@[simp] theorem presentCommand_envR (p : PortId) (w : Command) (s : State) : (presentCommand p w s).envR = s.envR := by simp [presentCommand]
@[simp] theorem presentCommand_sampleRate (p : PortId) (w : Command) (s : State) : (presentCommand p w s).sampleRate = s.sampleRate := by simp [presentCommand]
@[simp] theorem presentCommand_sil (p : PortId) (w : Command) (s : State) : (presentCommand p w s).sil = s.sil := by simp [presentCommand]
@[simp] theorem presentCommand_ram (p : PortId) (w : Command) (s : State) : (presentCommand p w s).ram = s.ram := by simp [presentCommand]
@[simp] theorem presentCommand_render (p : PortId) (w : Command) (s : State) : (presentCommand p w s).render = s.render := by simp [presentCommand]
@[simp] theorem presentCommand_memPort (p : PortId) (w : Command) (s : State) : (presentCommand p w s).memPort = s.memPort := by simp [presentCommand]
@[simp] theorem presentCommand_issuer (p : PortId) (w : Command) (s : State) : (presentCommand p w s).issuer = s.issuer := by simp [presentCommand]
@[simp] theorem presentCommand_agenda (p : PortId) (w : Command) (s : State) : (presentCommand p w s).agenda = s.agenda := by simp [presentCommand]
@[simp] theorem presentCommand_epoch (p : PortId) (w : Command) (s : State) : (presentCommand p w s).epoch = s.epoch := by simp [presentCommand]

/-! ### requestAccess -/

@[simp] theorem requestAccess_params (x : MemAccess) (s : State) : (requestAccess x s).params = s.params := rfl
@[simp] theorem requestAccess_voices (x : MemAccess) (s : State) : (requestAccess x s).voices = s.voices := rfl
@[simp] theorem requestAccess_mode (x : MemAccess) (s : State) : (requestAccess x s).mode = s.mode := rfl
@[simp] theorem requestAccess_envA (x : MemAccess) (s : State) : (requestAccess x s).envA = s.envA := rfl
@[simp] theorem requestAccess_envD (x : MemAccess) (s : State) : (requestAccess x s).envD = s.envD := rfl
@[simp] theorem requestAccess_envS (x : MemAccess) (s : State) : (requestAccess x s).envS = s.envS := rfl
@[simp] theorem requestAccess_envR (x : MemAccess) (s : State) : (requestAccess x s).envR = s.envR := rfl
@[simp] theorem requestAccess_sampleRate (x : MemAccess) (s : State) : (requestAccess x s).sampleRate = s.sampleRate := rfl
@[simp] theorem requestAccess_sil (x : MemAccess) (s : State) : (requestAccess x s).sil = s.sil := rfl
@[simp] theorem requestAccess_ram (x : MemAccess) (s : State) : (requestAccess x s).ram = s.ram := rfl
@[simp] theorem requestAccess_render (x : MemAccess) (s : State) : (requestAccess x s).render = s.render := rfl
@[simp] theorem requestAccess_portH (x : MemAccess) (s : State) : (requestAccess x s).portH = s.portH := rfl
@[simp] theorem requestAccess_portA (x : MemAccess) (s : State) : (requestAccess x s).portA = s.portA := rfl
@[simp] theorem requestAccess_memPort (x : MemAccess) (s : State) : (requestAccess x s).memPort = ⟨s.memPort.pending ++ [x], s.memPort.answers⟩ := rfl
@[simp] theorem requestAccess_issuer (x : MemAccess) (s : State) : (requestAccess x s).issuer = s.issuer := rfl
@[simp] theorem requestAccess_agenda (x : MemAccess) (s : State) : (requestAccess x s).agenda = s.agenda := rfl
@[simp] theorem requestAccess_epoch (x : MemAccess) (s : State) : (requestAccess x s).epoch = s.epoch := rfl

end Sys2Proof.Machine
end

