-- ==== Sys2Proof/Laws/Memory.lean ====
section
/-! SUPPORT. SAMPLE_RAM: reads after writes, the canonical form, and what a block's writes reach. -/

namespace Sys2Proof.Machine

/-! ### One word -/

@[simp] theorem Memory.find_put_same (m : Memory) (a : Nat) (v : Word) : (m.put a v).find a = some v := by
  induction m with
  | nil => simp [Memory.put, Memory.find]
  | cons x rest ih =>
    simp only [Memory.put]
    split
    · simp [Memory.find]
    · split
      · simp [Memory.find]
      · rename_i h
        simp [Memory.find, h, ih]

theorem Memory.find_put_other (m : Memory) (a b : Nat) (v : Word) (h : b ≠ a) :
    (m.put a v).find b = m.find b := by
  induction m with
  | nil => simp [Memory.put, Memory.find, h.symm]
  | cons x rest ih =>
    simp only [Memory.put]
    split
    · simp [Memory.find, h.symm]
    · split
      · rename_i hx
        have : x.1 ≠ b := fun e => h (e.symm.trans hx)
        simp [Memory.find, h.symm, this]
      · simp [Memory.find, ih]

theorem Memory.find_put (m : Memory) (a b : Nat) (v : Word) :
    (m.put a v).find b = if b = a then some v else m.find b := by
  split
  · rename_i h; simp [h]
  · rename_i h; exact m.find_put_other a b v h

theorem Memory.word_put (m : Memory) (epoch a b : Nat) (v : Word) :
    (m.put a v).word epoch b = if b = a then v else m.word epoch b := by
  unfold Memory.word
  rw [Memory.find_put]
  by_cases h : b = a <;> simp [h]

/-! ### The canonical form -/

theorem Memory.mem_put {m : Memory} {a : Nat} {v : Word} {x : Nat × Word} (h : x ∈ m.put a v) :
    x = (a, v) ∨ x ∈ m := by
  induction m with
  | nil => simpa [Memory.put] using h
  | cons y rest ih =>
    simp only [Memory.put] at h
    split at h
    · simpa using h
    · split at h
      · rcases List.mem_cons.1 h with h | h
        · exact .inl h
        · exact .inr (List.mem_cons_of_mem _ h)
      · rcases List.mem_cons.1 h with h | h
        · exact .inr (by simp [h])
        · exact (ih h).imp id (List.mem_cons_of_mem _)

theorem Memory.put_sorted {m : Memory} (a : Nat) (v : Word) (h : m.Pairwise (fun x y => x.1 < y.1)) :
    (m.put a v).Pairwise (fun x y => x.1 < y.1) := by
  induction m with
  | nil => simp [Memory.put]
  | cons x rest ih =>
    obtain ⟨hx, hrest⟩ := List.pairwise_cons.1 h
    simp only [Memory.put]
    split
    · rename_i ha
      refine List.pairwise_cons.2 ⟨fun y hy => ?_, h⟩
      rcases List.mem_cons.1 hy with rfl | hy
      · exact ha
      · exact Nat.lt_trans ha (hx y hy)
    · split
      · rename_i hxa
        exact List.pairwise_cons.2 ⟨fun y hy => hxa ▸ hx y hy, hrest⟩
      · rename_i h1 h2
        refine List.pairwise_cons.2 ⟨fun y hy => ?_, ih hrest⟩
        rcases Memory.mem_put hy with rfl | hy
        · exact Nat.lt_of_le_of_ne (Nat.le_of_not_lt h1) h2
        · exact hx y hy

/-- Every write inside SAMPLE_RAM keeps the canonical form. -/
theorem Memory.put_wf {m : Memory} {a : Nat} (v : Word) (h : m.wf) (ha : a < Config.ramWords) : (m.put a v).wf := by
  refine ⟨Memory.put_sorted a v h.1, fun x hx => ?_⟩
  rcases Memory.mem_put hx with rfl | hx
  · exact ha
  · exact h.2 x hx

theorem reset_ram_wf : State.reset.ram.wf := ⟨List.Pairwise.nil, fun _ h => nomatch h⟩

theorem writeRam_wf {s : State} (a : Nat) (v : Word) (h : s.ram.wf) : (writeRam a v s).ram.wf := by
  rw [writeRam_ram]
  split
  · rename_i ha; exact Memory.put_wf v h ha
  · exact h

/-- A host write reaches its own word alone, and nothing past the end (R53, R55). -/
theorem readRam_writeRam (a b : Nat) (v : Word) (s : State) :
    readRam b (writeRam a v s) = if b = a ∧ a < Config.ramWords then v else readRam b s := by
  unfold readRam
  simp only [writeRam_ram, writeRam_epoch]
  by_cases ha : a < Config.ramWords
  · by_cases e : b = a <;> simp [ha, e, Memory.word_put]
  · simp [ha]

/-! ### Zeroing -/

theorem Memory.find_zero (words : List Nat) (m : Memory) (a : Nat) :
    (m.zero words).find a = if a ∈ words then some 0#32 else m.find a := by
  unfold Memory.zero
  induction words generalizing m with
  | nil => simp
  | cons w rest ih =>
    simp only [List.foldl_cons, ih, Memory.find_put, List.mem_cons]
    by_cases h1 : a ∈ rest <;> by_cases h2 : a = w <;> simp [h1, h2]

theorem Memory.zero_wf (words : List Nat) {m : Memory} (h : m.wf) (hw : ∀ a ∈ words, a < Config.ramWords) :
    (m.zero words).wf := by
  unfold Memory.zero
  induction words generalizing m with
  | nil => exact h
  | cons w rest ih =>
    exact ih (Memory.put_wf _ h (hw w (by simp))) (fun a ha => hw a (by simp [ha]))

/-! ### A block's region -/

theorem mem_region (job : RenderJob) (a : Nat) :
    a ∈ region job ↔ ∃ c i, c < job.channels.toNat ∧ i < job.samples.toNat ∧ a = sampleWord c i := by
  simp only [region, List.mem_flatMap, List.mem_map, List.mem_range]
  constructor
  · rintro ⟨c, hc, i, hi, rfl⟩; exact ⟨c, i, hc, hi, rfl⟩
  · rintro ⟨c, i, hc, hi, rfl⟩; exact ⟨c, hc, i, hi, rfl⟩

theorem renderInRange_iff (c : Byte) (n : BitVec 16) :
    renderInRange c n = true ↔ n.toNat ≤ 4096 ∧ c.toNat ≤ 2 :=
  decide_eq_true_iff

/-- An accepted block lies inside SAMPLE_RAM. -/
theorem region_lt {job : RenderJob} (h : renderInRange job.channels job.samples = true) :
    ∀ a ∈ region job, a < Config.ramWords := by
  intro a ha
  obtain ⟨c, i, hc, hi, rfl⟩ := (mem_region job a).1 ha
  have := (renderInRange_iff _ _).1 h
  simp only [sampleWord, Config.ramWords, Config.maxBlock, Config.maxChannels]
  omega

/-- Distinct samples of accepted blocks are distinct words. -/
theorem sampleWord_inj {c c' i i' : Nat} (hi : i < Config.maxBlock) (hi' : i' < Config.maxBlock)
    (h : sampleWord c i = sampleWord c' i') : c = c' ∧ i = i' := by
  simp only [sampleWord, Config.maxBlock] at *
  omega

/-! ### The oscillator bank only adds inside its region (R110, R159) -/

theorem addSample_find_outside (s : State) (job : RenderJob) (v : Voice) (m : Memory) (i a : Nat)
    (h : ∀ c, c < job.channels.toNat → a ≠ sampleWord c i) : (addSample s job v m i).find a = m.find a := by
  have key : ∀ (cs : List Nat) (m : Memory), (∀ c ∈ cs, a ≠ sampleWord c i) →
      (cs.foldl (fun m c => addToWord s.epoch (monoSample s job.snap v i) m (sampleWord c i)) m).find a = m.find a := by
    intro cs
    induction cs with
    | nil => intro m _; rfl
    | cons c cs ih =>
      intro m hc
      rw [List.foldl_cons, ih _ (fun c' hc' => hc c' (by simp [hc'])), addToWord,
        Memory.find_put_other _ _ _ _ (hc c (by simp))]
  exact key _ m (fun c hc => h c (List.mem_range.1 hc))

theorem oscVoice_find_outside (s : State) (job : RenderJob) (m : Memory) (v : Voice) (a : Nat)
    (h : a ∉ region job) : (oscVoice s job m v).find a = m.find a := by
  have key : ∀ (is : List Nat) (m : Memory), (∀ i ∈ is, i < job.samples.toNat) →
      (is.foldl (addSample s job v) m).find a = m.find a := by
    intro is
    induction is with
    | nil => intro m _; rfl
    | cons i is ih =>
      intro m hi
      rw [List.foldl_cons, ih _ (fun i' hi' => hi i' (by simp [hi']))]
      exact addSample_find_outside s job v m i a
        (fun c hc e => h ((mem_region job a).2 ⟨c, i, hc, hi i (by simp), e⟩))
  exact key _ m (fun i hi => List.mem_range.1 hi)

theorem sumVoices_find_outside (s : State) (job : RenderJob) (a : Nat) (h : a ∉ region job) :
    (sumVoices s job).find a = s.ram.find a := by
  have key : ∀ (vs : List Voice) (m : Memory), (vs.foldl (oscVoice s job) m).find a = m.find a := by
    intro vs
    induction vs with
    | nil => intro m; rfl
    | cons v vs ih => intro m; rw [List.foldl_cons, ih, oscVoice_find_outside s job m v a h]
  rw [sumVoices, key, Memory.find_zero, if_neg h]

theorem addSample_wf (s : State) (job : RenderJob) (v : Voice) {m : Memory} (i : Nat) (hm : m.wf)
    (h : ∀ c, c < job.channels.toNat → sampleWord c i < Config.ramWords) : (addSample s job v m i).wf := by
  have key : ∀ (cs : List Nat) (m : Memory), m.wf → (∀ c ∈ cs, sampleWord c i < Config.ramWords) →
      (cs.foldl (fun m c => addToWord s.epoch (monoSample s job.snap v i) m (sampleWord c i)) m).wf := by
    intro cs
    induction cs with
    | nil => intro m hm _; exact hm
    | cons c cs ih =>
      intro m hm hc
      exact ih _ (Memory.put_wf _ hm (hc c (by simp))) (fun c' hc' => hc c' (by simp [hc']))
  exact key _ m hm (fun c hc => h c (List.mem_range.1 hc))

theorem oscVoice_wf (s : State) (job : RenderJob) {m : Memory} (v : Voice) (hm : m.wf)
    (h : renderInRange job.channels job.samples = true) : (oscVoice s job m v).wf := by
  have key : ∀ (is : List Nat) (m : Memory), m.wf → (∀ i ∈ is, i < job.samples.toNat) →
      (is.foldl (addSample s job v) m).wf := by
    intro is
    induction is with
    | nil => intro m hm _; exact hm
    | cons i is ih =>
      intro m hm hi
      refine ih _ (addSample_wf s job v i hm fun c hc => ?_) (fun i' hi' => hi i' (by simp [hi']))
      exact region_lt h _ ((mem_region job _).2 ⟨c, i, hc, hi i (by simp), rfl⟩)
  exact key _ m hm (fun i hi => List.mem_range.1 hi)

/-- Summing an accepted block keeps the canonical form. -/
theorem sumVoices_wf (s : State) (job : RenderJob) (hm : s.ram.wf)
    (h : renderInRange job.channels job.samples = true) : (sumVoices s job).wf := by
  have key : ∀ (vs : List Voice) (m : Memory), m.wf → (vs.foldl (oscVoice s job) m).wf := by
    intro vs
    induction vs with
    | nil => intro m hm; exact hm
    | cons v vs ih => intro m hm; exact ih _ (oscVoice_wf s job v hm h)
  exact key _ _ (Memory.zero_wf _ hm (region_lt h))

end Sys2Proof.Machine
end

