-- ==== Sys2Proof/Laws/Commands.lean ====
section
/-! SUPPORT. What the shared operations of the commands can do, said once each: how a command completes, who may issue
it, and what its work leaves of the state. -/

namespace Sys2Proof.Machine

/-- What a command's work leaves as it was before its response: the ports, the issuer and the outside. -/
structure KeepsOutside (s t : State) : Prop where
  portH : t.portH = s.portH
  portA : t.portA = s.portA
  memPort : t.memPort = s.memPort
  issuer : t.issuer = s.issuer
  agenda : t.agenda = s.agenda
  epoch : t.epoch = s.epoch

theorem KeepsOutside.refl (s : State) : KeepsOutside s s := ⟨rfl, rfl, rfl, rfl, rfl, rfl⟩

theorem KeepsOutside.port {s t : State} (h : KeepsOutside s t) (p : PortId) : t.port p = s.port p := by
  cases p
  · exact h.portH
  · exact h.portA

theorem portHOnly_h {s : State} (body : State → Reply) (h : s.issuer = .h) : portHOnly body s = body s := by
  simp [portHOnly, h]

theorem portHOnly_a {s : State} (body : State → Reply) (h : s.issuer = .a) :
    portHOnly body s = failWith .eIllegal s := by simp [portHOnly, h]

/-- Either port H's work, or E_ILLEGAL with nothing done. -/
theorem portHOnly_cases (body : State → Reply) (s : State) :
    portHOnly body s = body s ∨ portHOnly body s = failWith .eIllegal s := by
  cases h : s.issuer
  · exact .inl (portHOnly_h body h)
  · exact .inr (portHOnly_a body h)

theorem portHOnly_keeps {body : State → Reply} {s : State} (h : KeepsOutside s (body s).state) :
    KeepsOutside s (portHOnly body s).state := by
  rcases portHOnly_cases body s with e | e <;> rw [e]
  · exact h
  · exact KeepsOutside.refl s

theorem vpNoteOn_keeps (note velocity : Byte) (s : State) : KeepsOutside s (vpNoteOn note velocity s).state := by
  unfold vpNoteOn
  split
  · dsimp only; split <;> exact ⟨rfl, rfl, rfl, rfl, rfl, rfl⟩
  · exact KeepsOutside.refl s

theorem vpNoteOff_keeps (note : Byte) (s : State) : KeepsOutside s (vpNoteOff note s).state := by
  unfold vpNoteOff; split <;> exact ⟨rfl, rfl, rfl, rfl, rfl, rfl⟩

theorem psetState_keeps (index : Byte) (value : F32) (s : State) : KeepsOutside s (psetState index value s) := by
  unfold psetState; split <;> exact ⟨rfl, rfl, rfl, rfl, rfl, rfl⟩

theorem writeControl_keeps (r : ControlReg) (v : Word) (s : State) : KeepsOutside s (writeControl r v s) := by
  cases r <;> exact ⟨rfl, rfl, rfl, rfl, rfl, rfl⟩

theorem controlWrite_keeps (reg : Byte) (v : Word) (s : State) : KeepsOutside s (controlWrite reg v s).state := by
  unfold controlWrite; split
  · exact writeControl_keeps _ v s
  · exact KeepsOutside.refl s

theorem controlRead_state (reg : Byte) (s : State) : (controlRead reg s).state = s := by
  unfold controlRead; split <;> rfl

theorem voiceRead_state (slot sel : Byte) (s : State) : (voiceRead slot sel s).state = s := by
  unfold voiceRead; split
  · rfl
  · split <;> rfl

/-- Mixing a block writes SAMPLE_RAM and SIL alone. -/
theorem mixBlock_eq (job : RenderJob) (s : State) :
    mixBlock job s = { s with ram := (mixBlock job s).ram, sil := (mixBlock job s).sil } := by
  unfold mixBlock; dsimp only; split <;> rfl

@[simp] theorem mixBlock_voices (job : RenderJob) (s : State) : (mixBlock job s).voices = s.voices := by
  rw [mixBlock_eq]

@[simp] theorem mixBlock_params (job : RenderJob) (s : State) : (mixBlock job s).params = s.params := by
  rw [mixBlock_eq]

theorem renderFinish_keeps (job : RenderJob) (s : State) : KeepsOutside s (renderFinish job s).state := by
  unfold renderFinish
  constructor <;> simp only [renderEnd_portH, renderEnd_portA, renderEnd_memPort, renderEnd_issuer, renderEnd_agenda,
    renderEnd_epoch, vpReap_portH, vpReap_portA, vpReap_memPort, vpReap_issuer, vpReap_agenda, vpReap_epoch,
    vpTick_portH, vpTick_portA, vpTick_memPort, vpTick_issuer, vpTick_agenda, vpTick_epoch] <;> rw [mixBlock_eq]

/-- A finished RENDER is no longer in progress (R42). -/
@[simp] theorem renderFinish_render (job : RenderJob) (s : State) : (renderFinish job s).state.render = none := rfl

theorem renderBlock_keeps (c : Byte) (n : BitVec 16) (s : State) : KeepsOutside s (renderBlock c n s).state := by
  unfold renderBlock; split
  · have h := renderFinish_keeps ⟨s.params, c, n⟩ (renderBegin c n s)
    exact ⟨h.portH, h.portA, h.memPort, h.issuer, h.agenda, h.epoch⟩
  · exact KeepsOutside.refl s

/-- Every command completes: some work that leaves the ports and the outside alone, and then its response. -/
theorem exec_completes (i : Instr) (s : State) :
    ∃ r : Reply, exec i s = complete r ∧ KeepsOutside s r.state := by
  cases i with
  | nop => exact ⟨_, rfl, KeepsOutside.refl s⟩
  | eventNoteOff d1 d2 => exact ⟨_, rfl, portHOnly_keeps (vpNoteOff_keeps d1 s)⟩
  | eventNoteOnV0 d1 => exact ⟨_, rfl, portHOnly_keeps (vpNoteOff_keeps d1 s)⟩
  | eventNoteOn d1 d2 => exact ⟨_, rfl, portHOnly_keeps (vpNoteOn_keeps d1 d2 s)⟩
  | eventIgnored st d1 d2 => exact ⟨_, rfl, portHOnly_keeps (KeepsOutside.refl s)⟩
  | noteOn note velocity => exact ⟨_, rfl, portHOnly_keeps (vpNoteOn_keeps note velocity s)⟩
  | noteOff note => exact ⟨_, rfl, portHOnly_keeps (vpNoteOff_keeps note s)⟩
  | pset index value => exact ⟨_, rfl, psetState_keeps index value s⟩
  | pget index => exact ⟨_, rfl, KeepsOutside.refl s⟩
  | render c n => exact ⟨_, rfl, portHOnly_keeps (renderBlock_keeps c n s)⟩
  | cwr reg value => exact ⟨_, rfl, portHOnly_keeps (controlWrite_keeps reg value s)⟩
  | crd reg => exact ⟨_, rfl, portHOnly_keeps (by rw [controlRead_state]; exact KeepsOutside.refl s)⟩
  | vrd slot sel => exact ⟨_, rfl, portHOnly_keeps (by rw [voiceRead_state]; exact KeepsOutside.refl s)⟩
  | illegal op => exact ⟨_, rfl, KeepsOutside.refl s⟩

/-- A note-off scan finds the first match, or there is none (R91). -/
theorem noteOffScan_cases (off : Bool) (note : Byte) (vs : List Voice) :
    (noteOffScan off note vs = none ∧ ∀ v ∈ vs, offMatches off note v = false) ∨
    ∃ pre v post, vs = pre ++ v :: post ∧ (∀ u ∈ pre, offMatches off note u = false) ∧
      offMatches off note v = true ∧
      noteOffScan off note vs = some (pre ++ (if off then v.release :: post else post)) := by
  induction vs with
  | nil => exact .inl ⟨rfl, (fun _ h => nomatch h)⟩
  | cons v rest ih =>
    by_cases hv : offMatches off note v = true
    · refine .inr ⟨[], v, rest, rfl, (fun _ h => nomatch h), hv, ?_⟩
      simp [noteOffScan, hv]
    · rcases ih with ⟨hn, hall⟩ | ⟨pre, u, post, e, hpre, hu, hs⟩
      · refine .inl ⟨by simp [noteOffScan, hv, hn], fun u hu => ?_⟩
        rcases List.mem_cons.1 hu with rfl | hu
        · simpa using hv
        · exact hall u hu
      · refine .inr ⟨v :: pre, u, post, by simp [e], fun w hw => ?_, hu, by simp [noteOffScan, hv, hs]⟩
        rcases List.mem_cons.1 hw with rfl | hw
        · simpa using hv
        · exact hpre w hw

/-! ### Voices from one step to the next -/

/-- The two spellings of `note[6:0]` agree. -/
theorem newVoice_eq_freshVoice (note velocity : Byte) : newVoice note velocity = freshVoice note velocity := by
  simp [newVoice, freshVoice, BitVec.setWidth_eq_extractLsb']

/-- A valid note-on on a pool within its capacity: the newest 16 with the fresh voice last. -/
theorem vpNoteOn_voices {note velocity : Byte} {s : State} (hn : note.toNat ≤ 127) (hv : velocity.toNat ≤ 127)
    (hs : s.voices.length ≤ 16) : (vpNoteOn note velocity s).state.voices =
      (s.voices ++ [freshVoice note velocity]).drop (s.voices.length + 1 - 16) := by
  rw [← newVoice_eq_freshVoice]
  simp only [vpNoteOn, sevenBit, hn, hv, decide_true, Bool.and_self, if_true, Config.maxVoices, List.length_append,
    List.length_singleton]
  split
  · rw [show s.voices.length + 1 - 16 = 1 by omega, List.drop_one]
  · rw [show s.voices.length + 1 - 16 = 0 by omega, List.drop_zero]

/-- A voice left alone continues. -/
theorem continuesAs_refl (s : State) (u : Voice) : continuesAs s u u := ⟨rfl, rfl, .inl rfl, .inl ⟨rfl, rfl⟩⟩

/-- A tick never lowers an age. -/
theorem le_advanceAge (age : BitVec 64) (n : Nat) : age.toNat ≤ (advanceAge age n).toNat := by
  have := age.isLt
  simp only [advanceAge, Config.maxAge, BitVec.toNat_ofNat]
  omega

/-- A voice that a RENDER ages continues. -/
theorem continuesAs_tick {s : State} (h : s.render ≠ none ∨ ∃ c n, portHRuns s (.render c n)) (u : Voice) (n : Nat) :
    continuesAs s u (u.tick n) := ⟨rfl, rfl, .inr ⟨le_advanceAge u.age n, h⟩, .inl ⟨rfl, rfl⟩⟩

end Sys2Proof.Machine
end

