-- ==== Sys2Proof/Laws/Encoding.lean ====
section
/-! SUPPORT. The five fields of an assembled command word are the fields it was assembled from (R70). -/

namespace Sys2Proof

/-- An assembled word as a number. -/
theorem assemble_toNat (op f1 f2 f3 : Byte) (payload : Word) : (assemble op f1 f2 f3 payload).toNat =
    op.toNat * 2 ^ 56 + f1.toNat * 2 ^ 48 + f2.toNat * 2 ^ 40 + f3.toNat * 2 ^ 32 + payload.toNat := by
  have h1 := f1.isLt; have h2 := f2.isLt; have h3 := f3.isLt; have hp := payload.isLt
  simp only [assemble, BitVec.toNat_append]
  iterate 4 rw [← Nat.shiftLeft_add_eq_or_of_lt (by omega)]
  simp only [Nat.shiftLeft_eq]
  omega

@[simp] theorem opField_assemble (op f1 f2 f3 : Byte) (payload : Word) :
    opField (assemble op f1 f2 f3 payload) = op := by
  apply BitVec.eq_of_toNat_eq
  have h := op.isLt; have h1 := f1.isLt; have h2 := f2.isLt; have h3 := f3.isLt; have hp := payload.isLt
  simp only [opField, BitVec.extractLsb'_toNat, assemble_toNat, Nat.shiftRight_eq_div_pow]
  omega

@[simp] theorem f1Field_assemble (op f1 f2 f3 : Byte) (payload : Word) :
    f1Field (assemble op f1 f2 f3 payload) = f1 := by
  apply BitVec.eq_of_toNat_eq
  have h := op.isLt; have h1 := f1.isLt; have h2 := f2.isLt; have h3 := f3.isLt; have hp := payload.isLt
  simp only [f1Field, BitVec.extractLsb'_toNat, assemble_toNat, Nat.shiftRight_eq_div_pow]
  omega

@[simp] theorem f2Field_assemble (op f1 f2 f3 : Byte) (payload : Word) :
    f2Field (assemble op f1 f2 f3 payload) = f2 := by
  apply BitVec.eq_of_toNat_eq
  have h := op.isLt; have h1 := f1.isLt; have h2 := f2.isLt; have h3 := f3.isLt; have hp := payload.isLt
  simp only [f2Field, BitVec.extractLsb'_toNat, assemble_toNat, Nat.shiftRight_eq_div_pow]
  omega

@[simp] theorem f3Field_assemble (op f1 f2 f3 : Byte) (payload : Word) :
    f3Field (assemble op f1 f2 f3 payload) = f3 := by
  apply BitVec.eq_of_toNat_eq
  have h := op.isLt; have h1 := f1.isLt; have h2 := f2.isLt; have h3 := f3.isLt; have hp := payload.isLt
  simp only [f3Field, BitVec.extractLsb'_toNat, assemble_toNat, Nat.shiftRight_eq_div_pow]
  omega

@[simp] theorem payloadField_assemble (op f1 f2 f3 : Byte) (payload : Word) :
    payloadField (assemble op f1 f2 f3 payload) = payload := by
  apply BitVec.eq_of_toNat_eq
  have h := op.isLt; have h1 := f1.isLt; have h2 := f2.isLt; have h3 := f3.isLt; have hp := payload.isLt
  simp only [payloadField, BitVec.extractLsb'_toNat, assemble_toNat, Nat.shiftRight_eq_div_pow]
  omega

end Sys2Proof
end

