-- ==== Sys2Proof/Laws/Float.lean ====
section
/-! SUPPORT. The shape of binary32 results: what rounding can give, and what a packed magnitude unpacks to. -/

namespace Sys2Proof.Machine

theorem roundMag_le (num den : Nat) : roundMag num den ≤ 0x7F800000 := Nat.min_le_right _ _

theorem packSign_toNat {neg : Bool} {mag : Nat} (h : mag ≤ 0x7F800000) :
    (packSign neg mag).toNat = if neg then 2 ^ 31 + mag else mag := by
  cases neg <;> simp [packSign] <;> omega

/-- A packed magnitude unpacks to its value. -/
theorem unpack_packSign {neg : Bool} {mag : Nat} (h : mag ≤ 0x7F800000) :
    unpack (packSign neg mag) =
      if mag = 0x7F800000 then .inf neg
      else if mag < 2 ^ 23 then .fin neg mag 0
      else .fin neg (2 ^ 23 + mag % 2 ^ 23) (mag / 2 ^ 23 - 1) := by
  have hn := packSign_toNat (neg := neg) h
  have hneg : decide (2 ^ 31 ≤ (packSign neg mag).toNat) = neg := by
    rw [hn]; cases neg <;> simp; omega
  have he : (packSign neg mag).toNat / 2 ^ 23 % 256 = mag / 2 ^ 23 := by
    rw [hn]; cases neg <;> simp <;> omega
  have hf : (packSign neg mag).toNat % 2 ^ 23 = mag % 2 ^ 23 := by
    rw [hn]; cases neg <;> simp; omega
  unfold unpack
  simp only [hneg, he, hf]
  by_cases h1 : mag = 0x7F800000
  · subst h1; simp
  · have h2 : mag / 2 ^ 23 ≠ 255 := by omega
    by_cases h3 : mag < 2 ^ 23
    · have h4 : mag / 2 ^ 23 = 0 := by omega
      rw [if_neg h2, if_pos h4, if_neg h1, if_pos h3, Nat.mod_eq_of_lt h3]
    · have h4 : mag / 2 ^ 23 ≠ 0 := by omega
      rw [if_neg h2, if_neg h4, if_neg h1, if_neg h3]

/-- The packed result of a rounding is never NaN. -/
theorem unpack_round_ne_nan (neg : Bool) (num den : Nat) : unpack (packSign neg (roundMag num den)) ≠ .nan := by
  rw [unpack_packSign (roundMag_le num den)]
  split
  · simp
  · split <;> simp

theorem orderKey_eq_none_iff (x : F32) : orderKey x = none ↔ unpack x = .nan := by
  unfold orderKey; split <;> simp_all

theorem isFinite_iff (x : F32) : isFinite x = true ↔ ∃ neg m e, unpack x = .fin neg m e := by
  unfold isFinite; split <;> simp_all

@[simp] theorem unpack_arithNan : unpack arithNan = .nan := by decide

/-- An operation on a NaN gives the arithmetic NaN. -/
theorem fadd_nan_left {a : F32} (b : F32) (h : unpack a = .nan) : fadd a b = arithNan := by simp [fadd, h]

theorem fmul_nan_left {a : F32} (b : F32) (h : unpack a = .nan) : fmul a b = arithNan := by simp [fmul, h]

theorem fdiv_nan_left {a : F32} (b : F32) (h : unpack a = .nan) : fdiv a b = arithNan := by simp [fdiv, h]

theorem fadd_nan_right (a : F32) {b : F32} (h : unpack b = .nan) : fadd a b = arithNan := by
  unfold fadd; rw [h]; cases unpack a <;> rfl

theorem fmul_nan_right (a : F32) {b : F32} (h : unpack b = .nan) : fmul a b = arithNan := by
  unfold fmul; rw [h]; cases unpack a <;> rfl

theorem fdiv_nan_right (a : F32) {b : F32} (h : unpack b = .nan) : fdiv a b = arithNan := by
  unfold fdiv; rw [h]; cases unpack a <;> rfl

end Sys2Proof.Machine
end

