-- ==== Sys2Proof/Laws/PerInstr.lean ====
section
/-! SUPPORT. Facts about every command as syntax, one lemma per constructor. -/

namespace Sys2Proof.Laws.EncodesOpcode

/-- The encoder puts the command's opcode in bits 63:56 (R70, R73). -/
def Statement (i : Sys2Proof.Instr) : Prop := opField (encode i) = i.opcode

theorem nop : Statement .nop := opField_assemble _ _ _ _ _
theorem eventNoteOff (data1 data2 : Byte) : Statement (.eventNoteOff data1 data2) := opField_assemble _ _ _ _ _
theorem eventNoteOnV0 (data1 : Byte) : Statement (.eventNoteOnV0 data1) := opField_assemble _ _ _ _ _
theorem eventNoteOn (data1 data2 : Byte) : Statement (.eventNoteOn data1 data2) := opField_assemble _ _ _ _ _
theorem eventIgnored (status data1 data2 : Byte) : Statement (.eventIgnored status data1 data2) :=
  opField_assemble _ _ _ _ _
theorem noteOn (note velocity : Byte) : Statement (.noteOn note velocity) := opField_assemble _ _ _ _ _
theorem noteOff (note : Byte) : Statement (.noteOff note) := opField_assemble _ _ _ _ _
theorem pset (index : Byte) (value : F32) : Statement (.pset index value) := opField_assemble _ _ _ _ _
theorem pget (index : Byte) : Statement (.pget index) := opField_assemble _ _ _ _ _
theorem render (channels : Byte) (samples : BitVec 16) : Statement (.render channels samples) :=
  opField_assemble _ _ _ _ _
theorem cwr (reg : Byte) (value : Word) : Statement (.cwr reg value) := opField_assemble _ _ _ _ _
theorem crd (reg : Byte) : Statement (.crd reg) := opField_assemble _ _ _ _ _
theorem vrd (slot sel : Byte) : Statement (.vrd slot sel) := opField_assemble _ _ _ _ _
theorem illegal (op : Byte) : Statement (.illegal op) := opField_assemble _ _ _ _ _

end Sys2Proof.Laws.EncodesOpcode
end

