-- ==== Sys2Proof/Tests/Slice0.lean ====
section
/-! SUPPORT. The model's own tests, expected results taken from spec/95_test_vectors.md or worked out by hand from the
rules, and for every statement with hypotheses a witness that meets them. -/

namespace Sys2Proof.Tests

open Sys2Proof Sys2Proof.Machine

/-! ### Helpers -/

/-- The next state, if there is one. -/
def after (o : Host.Outcome State Fault Refusal) : Option State :=
  match o with
  | .next s => some s
  | .fault _ => none
  | .refused _ => none

/-- The last response of port H after a command. -/
def answerH (i : Instr) (s : State) : Option Response :=
  (after (exec i s)).bind fun t => t.portH.responses.getLast?

/-- The last response of port A after a command issued there. -/
def answerA (i : Instr) (s : State) : Option Response :=
  (after (exec i { s with issuer := .a })).bind fun t => t.portA.responses.getLast?

/-- Reset with a pool. -/
def withVoices (vs : List Voice) : State := { State.reset with voices := vs }

/-- A fresh voice. -/
def voice (note velocity : BitVec 7) : Voice := ⟨note, velocity, 0#64, false, 0#64⟩

/-- Reset with amplitude and every partial gain at one value each. -/
def withGains (amp gain : F32) (vs : List Voice) : State :=
  { State.reset with params := (Vector.replicate 17 gain).set 0 amp, voices := vs }

/-- Reset with amplitude, the first partial and the second partial. -/
def withTwoPartials (amp g1 g2 : F32) (vs : List Voice) : State :=
  { withGains amp 0#32 vs with params := (((Vector.replicate 17 0#32).set 0 amp).set 1 g1).set 2 g2 }

/-- The words written in SAMPLE_RAM by a command. -/
def ramAfter (i : Instr) (s : State) : Option Memory := (after (exec i s)).map (·.ram)

/-- Sixteen voices. -/
def sixteen : List Voice := (List.range 16).map fun i => voice (BitVec.ofNat 7 (60 + i)) 100#7

/-- A state about to make a move, with one command presented on each port. -/
def poised (moves : List Move) (h a : Command) : State :=
  { State.reset with agenda := moves, portH := ⟨[h], 0, []⟩, portA := ⟨[a], 0, []⟩ }

/-! ### Well-formedness: an ill-formed term for each check -/

theorem test_wf_event_note_on : Instr.wellFormed (.eventNoteOn 60#8 0#8) = false := by decide
theorem test_wf_event_ignored_off : Instr.wellFormed (.eventIgnored 0x80#8 1#8 2#8) = false := by decide
theorem test_wf_event_ignored_on : Instr.wellFormed (.eventIgnored 0x90#8 1#8 2#8) = false := by decide
theorem test_wf_illegal : Instr.wellFormed (.illegal 0x09#8) = false := by decide

/-! ### Decoding: words written out from R70, R71, R73, R74, in 95_test_vectors.md's examples -/

theorem test_decode_nop : decode 0x00FFFFFFFFFFFFFF#64 = .nop := by decide
theorem test_decode_event_note_off : decode 0x01803C4000000000#64 = .eventNoteOff 0x3C#8 0x40#8 := by decide
theorem test_decode_event_note_on_v0 : decode 0x01903C0000000000#64 = .eventNoteOnV0 0x3C#8 := by decide
theorem test_decode_event_note_on : decode 0x0190457F00000000#64 = .eventNoteOn 0x45#8 0x7F#8 := by decide
theorem test_decode_event_ignored : decode 0x01B0076400000000#64 = .eventIgnored 0xB0#8 0x07#8 0x64#8 := by decide
theorem test_decode_event_channel2 : decode 0x01913C6400000000#64 = .eventIgnored 0x91#8 0x3C#8 0x64#8 := by decide
theorem test_decode_note_on : decode 0x0200457F00000000#64 = .noteOn 0x45#8 0x7F#8 := by decide
theorem test_decode_note_off : decode 0x0300BC0000000000#64 = .noteOff 0xBC#8 := by decide
theorem test_decode_pset : decode 0x04000010C0200000#64 = .pset 0x10#8 0xC0200000#32 := by decide
theorem test_decode_pget : decode 0x050000FF00000000#64 = .pget 0xFF#8 := by decide
theorem test_decode_render : decode 0x0601100100000000#64 = .render 1#8 4097#16 := by decide
theorem test_decode_cwr : decode 0x07000005473B8000#64 = .cwr 5#8 0x473B8000#32 := by decide
theorem test_decode_crd : decode 0x0800000800000000#64 = .crd 8#8 := by decide
theorem test_decode_vrd : decode 0x0900030000000000#64 = .vrd 0#8 3#8 := by decide
theorem test_decode_vrd_slot : decode 0x0900000F00000000#64 = .vrd 15#8 0#8 := by decide
theorem test_decode_illegal_first : decode 0x0A00000000000000#64 = .illegal 0x0A#8 := by decide
theorem test_decode_illegal_last : decode 0xFFFFFFFFFFFFFFFF#64 = .illegal 0xFF#8 := by decide
theorem test_encode_note_on : encode (.noteOn 69#8 127#8) = 0x0200457F00000000#64 := by decide
theorem test_encode_render : encode (.render 1#8 4#16) = 0x0601000400000000#64 := by decide
theorem test_row_of_every_boundary : firstRow 0x0190000000000000#64 = 2 ∧ firstRow 0x0190000100000000#64 = 3 := by
  decide
theorem test_table_word : decodeTableWord 64 0x0200457F00000000 = some (.noteOn 69#8 127#8) := by decide

/-! ### Arithmetic: 95_test_vectors.md's velocity factors, and hand-made corners of R9 -/

theorem test_velocity_100 : velocityFactor 100#7 = 0x3F499326#32 := by decide +kernel
theorem test_velocity_64 : velocityFactor 64#7 = 0x3F010204#32 := by decide +kernel
/-- 2^24 + 1 lies halfway between 2^24 and 2^24 + 2: the even one. -/
theorem test_cvt32_tie : cvt32 16777217 = 0x4B800000#32 := by decide +kernel
/-- 1 + 2^-24 is a tie that rounds down to 1, and 1 + 3 · 2^-24 one that rounds up. -/
theorem test_fadd_ties : fadd 0x3F800000#32 0x33800000#32 = 0x3F800000#32 ∧
    fadd 0x3F800001#32 0x33800000#32 = 0x3F800002#32 := by decide +kernel
/-- x + (-x) is +0.0, and -0.0 + -0.0 is -0.0. -/
theorem test_fadd_zeros : fadd 0x3F800000#32 0xBF800000#32 = 0x00000000#32 ∧
    fadd 0x80000000#32 0x80000000#32 = 0x80000000#32 := by decide +kernel
/-- The least subnormal halved is a tie to even, 0; doubled largest overflows; inf - inf is NaN. -/
theorem test_float_edges : fmul 0x00000001#32 0x3F000000#32 = 0x00000000#32 ∧
    fadd 0x7F7FFFFF#32 0x7F7FFFFF#32 = 0x7F800000#32 ∧ isFinite (fsub 0x7F800000#32 0x7F800000#32) = false := by
  decide +kernel
theorem test_compare_nan : fge 0x7FC00000#32 0x7FC00000#32 = false ∧ fge 0x80000000#32 0x00000000#32 = true := by
  decide +kernel
/-- W7: the phases of 440 Hz at 44100 Hz, and their sines. -/
theorem test_phase_and_sine : phase 1 (freqRom 69#7) 0x472C4400#32 = 0x3D80634A#32 ∧
    sin32 0x3D80634A#32 = 0x3D804DC4#32 ∧ sin32 0x3E4094EF#32 = 0x3E3F72D2#32 := by decide +kernel
theorem test_freq_rom : freqRom 69#7 = 0x43DC0000#32 ∧ freqRom 127#7 = 0x4643FF6A#32 ∧
    freqRom 68#7 = 0x43CFA700#32 := by decide
/-- R124: at 44100 Hz note 100 keeps 8 harmonics and note 125 keeps one. -/
theorem test_survivors : (survivors (freqRom 100#7) 0x46AC4400#32).length = 8 ∧
    survivors (freqRom 125#7) 0x46AC4400#32 = [1] := by decide +kernel

/-! ### Envelope: E-set 1, EV3 and EV10 of 95_test_vectors.md -/

/-- The envelope registers of a test. -/
def withEnvelope (a d : Word) (level : F32) (r mode : Word) : State :=
  { State.reset with envA := a, envD := d, envS := level, envR := r, mode := mode }

theorem test_envelope_attack_decay : envelope (withEnvelope 4#32 4#32 0x3F000000#32 8#32 0#32) 3 false 0 = 0x3F400000#32 ∧
    envelope (withEnvelope 4#32 4#32 0x3F000000#32 8#32 0#32) 5 false 0 = 0x3F600000#32 ∧
    envelope (withEnvelope 4#32 4#32 0x3F000000#32 8#32 0#32) 8 false 0 = 0x3F000000#32 := by decide +kernel
theorem test_envelope_third : envelope (withEnvelope 3#32 0#32 0x3F000000#32 0#32 0#32) 1 false 0 = 0x3EAAAAAB#32 := by
  decide +kernel
theorem test_release_modes : envelope (withEnvelope 4#32 4#32 0x3F000000#32 8#32 0#32) 7 true 0 = 0x3D800000#32 ∧
    envelope (withEnvelope 4#32 4#32 0x3F000000#32 8#32 1#32) 17 true 10 = 0x3D800000#32 := by decide +kernel
theorem test_release_rounding : envelope (withEnvelope 0#32 0#32 0x3CEB0FCB#32 27252#32 0#32) 27252 true 0 =
    0x31000000#32 := by decide +kernel

/-! ### The commands -/

theorem test_nop : answerH .nop State.reset = some 0x0000000000000000#64 := by decide
theorem test_nop_on_a : answerA .nop State.reset = some 0x0000000000000000#64 := by decide

theorem test_note_on : answerH (.noteOn 69#8 127#8) State.reset = some 0x0000000000000000#64 ∧
    (after (exec (.noteOn 69#8 127#8) State.reset)).map (·.voices) = some [voice 69#7 127#7] := by decide
/-- VP6: a 17th voice evicts the oldest, notes 61 to 76 remain. -/
theorem test_note_on_evicts : answerH (.noteOn 76#8 100#8) (withVoices sixteen) = some 0x0000000000000001#64 ∧
    (after (exec (.noteOn 76#8 100#8) (withVoices sixteen))).map (fun t => t.voices.map (·.note.toNat)) =
      some [61, 62, 63, 64, 65, 66, 67, 68, 69, 70, 71, 72, 73, 74, 75, 76] := by decide
/-- VP2, VP3, E8: bytes above 127 are rejected. -/
theorem test_event_note_on_invalid : answerH (.eventNoteOn 60#8 0x80#8) State.reset = some 0x0100000000000000#64 ∧
    (after (exec (.eventNoteOn 60#8 0x80#8) State.reset)).map (·.voices) = some [] := by decide
theorem test_event_note_on : (after (exec (.eventNoteOn 60#8 100#8) State.reset)).map (·.voices) =
    some [voice 60#7 100#7] := by decide

/-- R93's example: with pool [60, 60, 64] the second 60 remains. -/
theorem test_note_off_removes_first :
    (after (exec (.noteOff 60#8) (withVoices [voice 60#7 1#7, voice 60#7 2#7, voice 64#7 3#7]))).map (·.voices) =
      some [voice 60#7 2#7, voice 64#7 3#7] := by decide
theorem test_note_off_miss : answerH (.noteOff 0xBC#8) (withVoices [voice 60#7 1#7]) = some 0x0000000000000000#64 := by
  decide
/-- VP11: under OFF_MODE 1 a second note-off releases the second voice. -/
theorem test_event_note_off_releases :
    (after (exec (.eventNoteOff 60#8 64#8) { withVoices
      [⟨60#7, 1#7, 2#64, true, 2#64⟩, ⟨60#7, 1#7, 2#64, false, 0#64⟩] with mode := 2#32 })).map (·.voices) =
      some [⟨60#7, 1#7, 2#64, true, 2#64⟩, ⟨60#7, 1#7, 2#64, true, 2#64⟩] := by decide
/-- E3: a note-on event with velocity 0 is a note-off. -/
theorem test_event_note_on_v0 : answerH (.eventNoteOnV0 60#8) (withVoices [voice 60#7 9#7]) =
    some 0x0000000000000001#64 ∧
    (after (exec (.eventNoteOnV0 60#8) (withVoices [voice 60#7 9#7]))).map (·.voices) = some [] := by decide
theorem test_event_ignored : answerH (.eventIgnored 0x91#8 60#8 100#8) State.reset = some 0x0000000000000000#64 ∧
    (after (exec (.eventIgnored 0x91#8 60#8 100#8) State.reset)).map (·.voices) = some [] := by decide

/-- W6: a NaN payload is kept, on index 3; index 17 stores nothing. -/
theorem test_pset : (after (exec (.pset 3#8 0x7FC00001#32) State.reset)).map (fun t => t.params[3]) =
    some 0x7FC00001#32 := by decide
theorem test_pset_out_of_range : (after (exec (.pset 17#8 0x3F800000#32) State.reset)).map (·.params) =
    some State.reset.params := by decide
theorem test_pget_top : answerA (.pget 16#8) (withGains 0#32 0xC0200000#32 []) = some 0x00000000C0200000#64 := by decide
theorem test_pget_out_of_range : answerH (.pget 17#8) (withGains 0#32 0xC0200000#32 []) =
    some 0x0000000000000000#64 := by decide

/-- C5: reserved bits of MODE are dropped. C9: SIL is write-1-to-clear. -/
theorem test_cwr_mode : (after (exec (.cwr 0#8 0xFFFFFFFF#32) State.reset)).map (·.mode) = some 3#32 := by decide
theorem test_cwr_status : (after (exec (.cwr 6#8 1#32) { State.reset with sil := true })).map (·.sil) = some false ∧
    (after (exec (.cwr 6#8 2#32) { State.reset with sil := true })).map (·.sil) = some true ∧
    answerH (.cwr 255#8 0#32) State.reset = some 0x0300000000000000#64 := by decide
theorem test_crd_status : answerH (.crd 6#8) { withVoices [voice 1#7 1#7] with sil := true } =
    some 0x0000000000000101#64 ∧ answerH (.crd 6#8) (withVoices sixteen) = some 0x0000000000001000#64 := by decide
theorem test_crd_constants : answerH (.crd 8#8) State.reset = some 0x000000000C021110#64 ∧
    answerH (.crd 9#8) State.reset = some 0x0300000000000000#64 := by decide
/-- R2: voice 69/127 released at age 2. R6: age 2^32 + 7. -/
theorem test_vrd_summary : answerH (.vrd 0#8 0#8) (withVoices [⟨69#7, 127#7, 2#64, true, 2#64⟩]) =
    some 0x00000000C000457F#64 ∧ answerH (.vrd 0#8 3#8) (withVoices [⟨69#7, 127#7, 2#64, true, 2#64⟩]) =
    some 0x0000000000000002#64 := by decide
theorem test_vrd_age : answerH (.vrd 0#8 1#8) (withVoices [⟨69#7, 1#7, 4294967303#64, false, 0#64⟩]) =
    some 0x0000000000000007#64 ∧ answerH (.vrd 0#8 2#8) (withVoices [⟨69#7, 1#7, 4294967303#64, false, 0#64⟩]) =
    some 0x0000000000000001#64 ∧ answerH (.vrd 16#8 5#8) State.reset = some 0x0300000000000000#64 := by decide

theorem test_illegal : answerH (.illegal 0x0A#8) State.reset = some 0x0200000000000000#64 ∧
    answerA (.illegal 0xFF#8) State.reset = some 0x0200000000000000#64 := by decide
/-- X6, X7: port H's commands on port A. -/
theorem test_port_a_refused : answerA (.noteOn 60#8 100#8) State.reset = some 0x0200000000000000#64 ∧
    answerA (.render 3#8 1#16) State.reset = some 0x0200000000000000#64 := by decide

/-- O2 of 95_test_vectors.md: two harmonics at 48000 Hz, the same in both channels. -/
theorem test_render_two_channels :
    ramAfter (.render 2#8 3#16) { withTwoPartials 0x3F000000#32 0x3F800000#32 0x3F000000#32 [voice 69#7 64#7] with
      sampleRate := 0x473B8000#32 } =
      some [(0, 0x00000000#32), (1, 0x3CED7119#32), (2, 0x3D6C7568#32), (4096, 0x00000000#32),
        (4097, 0x3CED7119#32), (4098, 0x3D6C7568#32)] := by decide +kernel
/-- O3: all sixteen harmonics of note 69. -/
theorem test_render_sixteen_harmonics :
    ramAfter (.render 1#8 3#16) (withGains 0x3F800000#32 0x3F800000#32 [voice 69#7 127#7]) =
      some [(0, 0x00000000#32), (1, 0x40F95E8E#32), (2, 0x413C7013#32)] := by decide +kernel
/-- O8: a NaN gain that is read silences the block, which still ticks. -/
theorem test_render_silence :
    answerH (.render 1#8 2#16) (withTwoPartials 0x3F800000#32 0x3F800000#32 0x7FC00000#32 [voice 60#7 127#7]) =
      some 0x0000000080000001#64 ∧
    ramAfter (.render 1#8 2#16) (withTwoPartials 0x3F800000#32 0x3F800000#32 0x7FC00000#32 [voice 60#7 127#7]) =
      some [(0, 0x00000000#32), (1, 0x00000000#32)] := by decide +kernel
/-- VP14: an age saturates. RN8: a released voice with R = 0 is rendered, then reaped. -/
theorem test_render_tick_and_reap :
    (after (exec (.render 0#8 5#16) (withVoices [⟨60#7, 1#7, 18446744073709551613#64, false, 0#64⟩]))).map
      (fun t => t.voices.map (·.age)) = some [18446744073709551615#64] ∧
    (after (exec (.render 0#8 0#16) (withVoices [⟨60#7, 1#7, 3#64, true, 3#64⟩]))).map (·.voices) = some [] := by
  decide +kernel
/-- RN1, RN2: block bounds. -/
theorem test_render_bounds : answerH (.render 1#8 4097#16) State.reset = some 0x0300000000000000#64 ∧
    answerH (.render 3#8 1#16) State.reset = some 0x0300000000000000#64 := by decide

/-! ### Steps -/

/-- The command a step runs when the host places one. -/
theorem test_placed_command_runs :
    ((after (step (State.reset.withFetchWord 64 0x0200457F00000000))).map fun t => (t.voices, t.portH)) =
      some ([voice 69#7 127#7], ⟨[], 1, [0x0000000000000000#64]⟩) := by decide

/-- PS3: a PSET on port A after the latch does not reach the block, whose gains were all +0.0. -/
theorem test_latch_keeps_old_parameters :
    (after (Host.Core.run core 3 { poised [.latch, .run .a, .run .h] 0x0601000200000000#64 0x0400000141200000#64 with
      voices := [voice 69#7 127#7] })).map (fun t => (t.params[1], t.ram, t.portH.position)) =
      some (0x41200000#32, [(0, 0x00000000#32), (1, 0x00000000#32)], 1) := by decide +kernel

/-- R54: a host read is held while a RENDER runs. -/
theorem test_memory_port_held :
    (after (Host.Core.run core 2 { poised [.latch, .serve] 0x0601000200000000#64 0#64 with
      memPort := ⟨[.read 0], []⟩ })).map (·.memPort) = some ⟨[.read 0], []⟩ := by decide +kernel

/-- R55: past the end a read gives 0 and a write nothing. -/
theorem test_memory_port_past_end :
    (after (Host.Core.run core 2 { poised [.serve, .serve] 0#64 0#64 with
      memPort := ⟨[.write 8192 7#32, .read 8192], []⟩ })).map (fun t => (t.ram, t.memPort.answers)) =
      some ([], [.done, .data 0#32]) := by decide

/-- R220: reset discards what was presented. -/
theorem test_reset_input :
    (after (step { poised [.resetInput] 0#64 0#64 with sil := true, voices := sixteen })).map
      (fun t => (t.sil, t.voices, t.portH.pending, t.epoch)) = some (false, [], [], 1) := by decide

/-! ### Host-side text: W9 -/

theorem test_display_text : percentOf 0x3F400000#32 = "75.00%" ∧ percentOf 0x80000000#32 = "0.00%" ∧
    percentOf 0x7FC00000#32 = "NaN%" := by decide +kernel
theorem test_param_name : paramName 0 = "Oscillator A Amplitude" ∧ paramName 16 = "Oscillator A Partial 16" ∧
    paramName 17 = "" := by decide +kernel

/-! ### Witnesses: for each statement with hypotheses, values that meet all of them together, each clause at a boundary -/

/-- A RENDER of one sample on one channel, presented and latched. -/
def rendering : State :=
  { poised [.serve, .run .h, .serve] 0x0601000100000000#64 0#64 with
    render := some ⟨State.reset.params, 1#8, 1#16⟩
    memPort := ⟨[.read 0], []⟩ }

theorem witness_DecodeEncodeRoundTrip : Instr.wellFormed (.eventNoteOn 0#8 1#8) = true ∧
    Instr.wellFormed (.eventIgnored 0x81#8 0#8 0#8) = true ∧ Instr.wellFormed (.illegal 0x0A#8) = true ∧
    Instr.wellFormed (.illegal 0xFF#8) = true ∧ Instr.wellFormed (.render 255#8 65535#16) = true := by decide

theorem witness_IgnoredFieldsNeverMatter :
    (0x00FFFFFFFFFFFFFF#64 &&& usedFields (opField 0x00FFFFFFFFFFFFFF#64) =
      0x0000000000000000#64 &&& usedFields (opField 0x00FFFFFFFFFFFFFF#64)) ∧
    (0x03123C4500000001#64 &&& usedFields (opField 0x03123C4500000001#64) =
      0x03003C0000000000#64 &&& usedFields (opField 0x03123C4500000001#64)) := by decide

theorem witness_OperandsComeFromTheirFields : opField 0x0180FFFF00000000#64 = 0x01#8 ∧
    f1Field 0x0180FFFF00000000#64 = 0x80#8 ∧ opField 0x01903C0000000000#64 = 0x01#8 ∧
    f1Field 0x01903C0000000000#64 = 0x90#8 ∧ f3Field 0x01903C0000000000#64 = 0#8 ∧
    f1Field 0x01903C0100000000#64 = 0x90#8 ∧ f3Field 0x01903C0100000000#64 ≠ 0#8 ∧
    f1Field 0x0191000000000000#64 ≠ 0x80#8 ∧ f1Field 0x0191000000000000#64 ≠ 0x90#8 ∧
    opField 0x02FF7F7F00000000#64 = 0x02#8 ∧ opField 0x03FF7FFF00000000#64 = 0x03#8 ∧
    opField 0x0602100000000000#64 = 0x06#8 := by decide
theorem witness_HalvesAndBridgeBytesReassemble : (0 : Nat) < 4 ∧ (3 : Nat) < 4 ∧ (7 : Nat) < 8 := by decide

/-- R57: the half with bits 63:32 goes first, here an E_RANGE status before a DATA. -/
theorem test_response_halves : responseHalves 0x0300000080000001#64 = [0x03000000#32, 0x80000001#32] := by decide

theorem witness_StepRunsDecodedCommand_run :
    (poised [.run .h] 0#64 1#64).agenda = .run .h :: [] ∧ (poised [.run .h] 0#64 1#64).render = none ∧
      fetch .h (poised [.run .h] 0#64 1#64) = some 0#64 := by decide
theorem witness_StepRunsDecodedCommand_runA : rendering.render ≠ none ∧
    ({ rendering with agenda := [.run .a] } : State).agenda = .run .a :: [] ∧ fetch .a rendering = some 0#64 := by decide
theorem witness_StepRunsDecodedCommand_idleH : (poised [] 5#64 1#64).agenda = [] ∧
    (poised [] 5#64 1#64).render = none ∧ fetch .h (poised [] 5#64 1#64) = some 5#64 := by decide
theorem witness_StepRunsDecodedCommand_idleA : ({ State.reset with portA := ⟨[7#64], 0, []⟩ } : State).agenda = [] ∧
    fetch .h { State.reset with portA := ⟨[7#64], 0, []⟩ } = none ∧
    fetch .a { State.reset with portA := ⟨[7#64], 0, []⟩ } = some 7#64 := by decide

theorem witness_PositionFollowsResponses : ∃ t, step (poised [.run .h] 0#64 0#64) = .next t := ⟨_, rfl⟩
theorem witness_PositionFollowsResponses_reset : ∃ t, step (poised [.resetInput] 0#64 0#64) = .next t := ⟨_, rfl⟩

theorem witness_PortATouchesParametersOnly : (poised [.run .a] 0#64 0x040000103F800000#64).agenda = .run .a :: [] ∧
    ∃ t, step (poised [.run .a] 0#64 0x040000103F800000#64) = .next t := ⟨rfl, _, rfl⟩

theorem witness_PortAAdmitsThreeCommands : ({ State.reset with issuer := .a } : State).issuer = .a ∧
    (∃ index, Instr.pget 16#8 = .pget index) ∧ ¬(Instr.render 3#8 1#16 = .nop ∨
      (∃ index value, Instr.render 3#8 1#16 = .pset index value) ∨ ∃ index, Instr.render 3#8 1#16 = .pget index) :=
  ⟨rfl, ⟨16#8, rfl⟩, by simp⟩

theorem witness_StatusFollowsTheErrorRules : expectedStatus (.crd 9#8) .h = .eRange ∧
    expectedStatus (.render 3#8 1#16) .a = .eIllegal ∧ expectedStatus (.noteOn 128#8 1#8) .h = .eInval := by decide
theorem witness_ErrorsHaveNoEffect : ∃ t, exec (.crd 9#8) State.reset = .next t ∧
    answeredWith State.reset t .eRange 0#32 ∧ Status.eRange ≠ .ok := by
  refine ⟨_, rfl, ⟨rfl, rfl, rfl, fun p hp => ?_⟩, by decide⟩
  cases p
  · exact absurd rfl hp
  · rfl

theorem witness_HostAccessPastEndDoesNothing :
    ({ poised [.serve] 0#64 0#64 with memPort := ⟨[.read 8192], []⟩ } : State).agenda = .serve :: [] ∧
    ({ poised [.serve] 0#64 0#64 with memPort := ⟨[.read 8192], []⟩ } : State).busy = false ∧ 8192 ≤ 8192 ∧
    ({ poised [.serve] 0#64 0#64 with memPort := ⟨[.write 8192 1#32], []⟩ } : State).memPort.pending =
      .write 8192 1#32 :: [] := by decide
theorem witness_HostAccessMovesOneWord :
    ({ poised [.serve] 0#64 0#64 with memPort := ⟨[.write 8191 1#32], []⟩ } : State).agenda = .serve :: [] ∧
    ({ poised [.serve] 0#64 0#64 with memPort := ⟨[.write 8191 1#32], []⟩ } : State).busy = false ∧ 8191 < 8192 ∧
    ({ poised [.serve] 0#64 0#64 with memPort := ⟨[.read 8191], []⟩ } : State).memPort.pending =
      .read 8191 :: [] := by decide
theorem witness_HostAccessHeldWhileBusy : rendering.render = some ⟨State.reset.params, 1#8, 1#16⟩ ∧
    rendering.memPort.pending = .read 0 :: [] ∧ rendering.agenda = [.serve, .run .h, .serve] := by decide
theorem witness_HostAccessHeldWhileBusy_write :
    ({ rendering with memPort := ⟨[.write 8192 1#32], []⟩ } : State).memPort.pending = .write 8192 1#32 :: [] := by
  decide

theorem witness_ResetValues : (0 : Nat) < 17 ∧ (16 : Nat) < 17 ∧ (8191 : Nat) < 8192 := by decide
theorem witness_ResetInputDiscardsEverything :
    ({ rendering with agenda := [.resetInput, .run .h] } : State).agenda = .resetInput :: [.run .h] := by decide

/-- A sound state with a RENDER in progress and sixteen voices steps to a next state. -/
theorem witness_StepKeepsSoundState : State.wf { rendering with voices := sixteen } ∧
    ∃ t, step { rendering with voices := sixteen } = .next t := ⟨by decide +kernel, _, rfl⟩

theorem witness_issuer_h : State.reset.issuer = .h := by decide
theorem witness_decodeClauses : opField 0x00123456789ABCDE#64 = 0x00#8 ∧ opField 0x04FFFF103F800000#64 = 0x04#8 ∧
    opField 0x0500001000000000#64 = 0x05#8 ∧ opField 0x07FFFF0000000003#64 = 0x07#8 ∧
    opField 0x0800000600000000#64 = 0x08#8 ∧ opField 0x0900040F00000000#64 = 0x09#8 := by decide
theorem witness_ReservedOpcodeAnswersIllegal : 0x0A ≤ (opField 0x0A00000000000000#64).toNat ∧
    0x0A ≤ (opField 0xFFFFFFFFFFFFFFFF#64).toNat := by decide

theorem witness_NoteOnCreatesVoice : isNoteOn (.noteOn 127#8 127#8) 127#8 127#8 ∧
    isNoteOn (.eventNoteOn 127#8 127#8) 127#8 127#8 ∧ (withVoices sixteen).issuer = .h ∧
    (withVoices sixteen).voices.length = 16 ∧ (127#8).toNat ≤ 127 ∧ 127 < (128#8).toNat :=
  ⟨.inl rfl, .inr rfl, rfl, by decide, by decide, by decide⟩
theorem witness_NoteOffEndsFirstMatch : isNoteOff (.noteOff 60#8) 60#8 ∧ isNoteOff (.eventNoteOff 60#8 9#8) 60#8 ∧
    isNoteOff (.eventNoteOnV0 60#8) 60#8 ∧
    (withVoices [voice 64#7 1#7, voice 60#7 2#7]).voices = [voice 64#7 1#7] ++ voice 60#7 2#7 :: [] ∧
    endsAt (withVoices [voice 64#7 1#7, voice 60#7 2#7]) 60#8 (voice 60#7 2#7) ∧
    ∀ u ∈ [voice 64#7 1#7], ¬endsAt (withVoices [voice 64#7 1#7, voice 60#7 2#7]) 60#8 u := by
  refine ⟨.inl rfl, .inr (.inl ⟨9#8, rfl⟩), .inr (.inr rfl), rfl, ⟨by decide, .inl (by decide)⟩, fun u hu h => ?_⟩
  rw [List.mem_singleton] at hu
  subst hu
  exact absurd h.1 (by decide)
/-- Under OFF_MODE 1 a released voice of the note is passed over, and a miss is possible. -/
theorem witness_NoteOffEndsFirstMatch_released :
    ∀ v ∈ ({ withVoices [⟨60#7, 1#7, 2#64, true, 2#64⟩] with mode := 2#32 } : State).voices,
      ¬endsAt { withVoices [⟨60#7, 1#7, 2#64, true, 2#64⟩] with mode := 2#32 } 60#8 v := by
  intro v hv h
  rw [show v = ⟨60#7, 1#7, 2#64, true, 2#64⟩ from List.mem_singleton.1 hv] at h
  rcases h.2 with h | h
  · exact absurd h (by decide)
  · exact absurd h (by decide)
theorem witness_PoolKeepsSixteenNewest : (withVoices sixteen).voices.length ≤ 16 ∧
    ∀ x ∈ [((127#8, 127#8) : Byte × Byte), (0#8, 0#8)], x.1.toNat ≤ 127 ∧ x.2.toNat ≤ 127 :=
  ⟨by decide, by simp⟩
theorem witness_VoicesKeepTheirIdentity : ∃ t, step ((withVoices sixteen).withFetchWord 64 0x0600000500000000) =
    .next t ∧ t.voices ≠ [] := ⟨_, rfl, by decide +kernel⟩

/-- The note-on that brings a fresh voice. -/
theorem witness_VoicesKeepTheirIdentity_fresh : isNoteOn (.noteOn 69#8 127#8) 69#8 127#8 ∧
    portHRuns ((withVoices sixteen).withFetchWord 64 0x0200457F00000000) (.noteOn 69#8 127#8) ∧
    ∃ t, step ((withVoices sixteen).withFetchWord 64 0x0200457F00000000) = .next t ∧
      t.voices = (withVoices sixteen).voices.tail ++ [freshVoice 69#8 127#8] :=
  ⟨.inl rfl, ⟨rfl, .inr rfl, by decide⟩, _, rfl, by decide +kernel⟩

theorem witness_PsetWritesOneCell : (0 : Nat) < 17 ∧ (16#8).toNat < 17 ∧ 17 ≤ (17#8).toNat := by decide
theorem witness_PgetReadsOneCell : (16#8).toNat < 17 ∧ 17 ≤ (17#8).toNat := by decide
theorem witness_ParameterRoundTrip : (16#8).toNat ≤ 16 ∧ 17 ≤ (17#8).toNat ∧
    ∀ c ∈ [((.a, .pset 15#8 1#32) : PortId × Instr), (.h, .render 1#8 1#16)], ∀ v, c.2 ≠ .pset 16#8 v := by
  refine ⟨by decide, by decide, fun c hc v => ?_⟩
  rcases List.mem_cons.1 hc with rfl | hc
  · simp
  · rw [List.mem_singleton.1 hc]; simp

theorem witness_CwrWritesOneRegister : ({ State.reset with issuer := .a } : State).issuer = .a ∧
    (8#8).toNat ≤ 8 ∧ ¬(9#8).toNat ≤ 8 := by decide
theorem witness_CrdReadsOneRegister : (8#8).toNat ≤ 8 ∧ 9 ≤ (9#8).toNat := by decide
theorem witness_VrdReadsOneField : (withVoices sixteen).voices[(15#8).toNat]? = some (voice 75#7 100#7) ∧
    (withVoices sixteen).voices.length ≤ (16#8).toNat ∧ (4#8).toNat ≤ 4 ∧ 4 < (5#8).toNat := by decide
theorem witness_SilChangesOnlyAsRuled_set : ∃ t,
    exec (.render 1#8 2#16) (withTwoPartials 0x3F800000#32 0x3F800000#32 0x7FC00000#32 [voice 60#7 127#7]) = .next t ∧
    (withTwoPartials 0x3F800000#32 0x3F800000#32 0x7FC00000#32 [voice 60#7 127#7]).sil = false ∧ t.sil = true :=
  ⟨_, rfl, rfl, by decide +kernel⟩
theorem witness_SilChangesOnlyAsRuled_clear : ∃ t, exec (.cwr 6#8 1#32) { State.reset with sil := true } = .next t ∧
    ({ State.reset with sil := true } : State).sil = true ∧ t.sil = false := ⟨_, rfl, rfl, by decide⟩

theorem witness_RenderChecksBlockBounds : (4096#16).toNat ≤ 4096 ∧ (2#8).toNat ≤ 2 ∧ 4096 < (4097#16).toNat ∧
    2 < (3#8).toNat := by decide
/-- For RenderMixesOrFallsSilent, RenderFrame, RenderAgesThenReaps: the largest accepted block, on port H; both a mix
that faults and one that does not exist. -/
theorem witness_RenderMixesOrFallsSilent : (withVoices sixteen).issuer = .h ∧ (4096#16).toNat ≤ 4096 ∧
    (2#8).toNat ≤ 2 ∧ (1 : Nat) < (2#8).toNat ∧ (4095 : Nat) < (4096#16).toNat ∧
    mixFaults (withTwoPartials 0x3F800000#32 0x3F800000#32 0x7FC00000#32 [voice 60#7 127#7]) 1 = true ∧
    mixFaults (withTwoPartials 0x3F800000#32 0x3F800000#32 0#32 [voice 60#7 127#7]) 2 = false := by decide +kernel
theorem witness_RenderMixesOrFallsSilent_carry : isFinite 0x7F800000#32 = false ∧ isFinite 0xFFC00000#32 = false := by
  decide
theorem witness_RenderFrame : ∀ ch i, ch < (1#8).toNat → i < (4096#16).toNat → 4096 ≠ ch * 4096 + i := by
  intro ch i h1 h2
  have : (1#8).toNat = 1 := rfl
  have : (4096#16).toNat = 4096 := rfl
  omega
theorem witness_LatchedRenderIsIsolated :
    (poised [.latch, .run .a, .serve, .run .h] 0x0601000200000000#64 0x0400000141200000#64).render = none ∧
    fetch .h (poised [.latch, .run .a, .serve, .run .h] 0x0601000200000000#64 0x0400000141200000#64) =
      some 0x0601000200000000#64 ∧
    decode 0x0601000200000000#64 = .render 1#8 2#16 ∧ (2#16).toNat ≤ 4096 ∧ (1#8).toNat ≤ 2 ∧
    (∀ m ∈ [Move.run .a, Move.serve], awayFromPortH m) ∧
    (poised [.latch, .run .a, .serve, .run .h] 0x0601000200000000#64 0x0400000141200000#64).agenda =
      .latch :: ([Move.run .a, Move.serve] ++ [.run .h]) := by
  refine ⟨by decide, by decide, by decide, by decide, by decide, fun m hm => ?_, by decide⟩
  rcases List.mem_cons.1 hm with rfl | hm
  · exact .inl rfl
  · exact .inr (.inr (.inr (List.mem_singleton.1 hm)))
theorem witness_OscillatorAddsMonoToEveryChannel :
    (⟨State.reset.params, 2#8, 4096#16⟩ : RenderJob).samples.toNat ≤ 4096 ∧
    (1 : Nat) < (⟨State.reset.params, 2#8, 4096#16⟩ : RenderJob).channels.toNat ∧
    (4095 : Nat) < (⟨State.reset.params, 2#8, 4096#16⟩ : RenderJob).samples.toNat := by decide

/-- Gains of both zero signs, under an infinite amplitude. -/
theorem witness_ZeroGainsAreSilent : (withGains 0x7F800000#32 0x80000000#32 sixteen).issuer = .h ∧
    ∀ (k : Nat) (h : k < 17), 1 ≤ k → (withGains 0x7F800000#32 0x80000000#32 sixteen).params[k] = 0x00000000#32 ∨
      (withGains 0x7F800000#32 0x80000000#32 sixteen).params[k] = 0x80000000#32 := by decide
/-- W5: harmonic 2 of note 127 is above Nyquist at 44100 Hz. -/
theorem witness_SkippedHarmonicIsNeverRead : (2 : Nat) < 17 ∧ 1 ≤ 2 ∧
    skipped (freqRom (voice 127#7 127#7).note) 2 (nyquist State.reset.sampleRate) = true := by decide +kernel
theorem witness_RateDecidesTheCut : fge 0x00000000#32 0x80000000#32 = true ∧ fge 0x00000000#32 0xFF800000#32 = true ∧
    fge 0x00000000#32 0x00000000#32 = true ∧ orderKey 0x7FC00000#32 = none ∧ 1 ≤ 1 ∧ 16 ≤ 16 := by decide +kernel
theorem witness_FreqRomIsNearest : (126#7).toNat < 127 := by decide
theorem witness_IdentityEnvelopeChangesNothing : State.reset.envA = 0#32 ∧ State.reset.envD = 0#32 ∧
    State.reset.envS = 0x3F800000#32 ∧ orderKey 0x80000000#32 ≠ none ∧ orderKey 0x7F800000#32 ≠ none := by
  decide +kernel
theorem witness_EnvelopeMeetsItsStageEnds : (1#32 : Word) ≠ 0#32 ∧ (0 : Nat) < (1#32 : Word).toNat ∧
    isFinite State.reset.envS = true ∧ State.reset.envA.toNat + State.reset.envD.toNat ≤ 0 := by decide
theorem witness_ReleaseTimeFollowsRelMode : State.reset.mode.getLsbD 0 = false ∧ (1#32 : Word).getLsbD 0 = true ∧
    (1#32 : Word) ≠ 0#32 ∧ isFinite State.reset.envS = true ∧ fgt State.reset.envS 0x00000000#32 = true := by decide
theorem witness_HostTextFollowsItsRules : (1 : Nat) ≤ 16 ∧ 17 ≤ (17#8).toNat ∧ (16 : Nat) < 17 ∧
    orderKey 0x7FC00001#32 = none := by decide
theorem witness_ReleaseGainIsNeverNegative : State.reset.envR = 0#32 := by decide
theorem witness_EnvelopeStaysInUnitRange : fge State.reset.envS 0x00000000#32 = true ∧
    fge 0x3F800000#32 State.reset.envS = true ∧ fge 0x80000000#32 0x00000000#32 = true := by decide +kernel
theorem witness_ReleaseEndsByTwiceItsLength :
    fge (withEnvelope 0#32 0#32 0x3F800000#32 8388607#32 0#32).envS 0x00000000#32 = true ∧
    2 * (withEnvelope 0#32 0#32 0x3F800000#32 8388607#32 0#32).envR.toNat < 2 ^ 24 ∧
    2 * (withEnvelope 0#32 0#32 0x3F800000#32 8388607#32 0#32).envR.toNat ≤ 16777214 := by decide +kernel
theorem witness_ArithmeticRoundsToNearestEven : finiteUnits 0x3F800001#32 = some (8388609 * 2 ^ 126) ∧
    finiteUnits 0x33800000#32 = some (2 ^ 125) ∧ finiteUnits 0x3F800002#32 = some (8388610 * 2 ^ 126) ∧
    0x3F800002#32 = fadd 0x3F800001#32 0x33800000#32 ∧ 0x3F800000#32 = fsub 0x3F800001#32 0x34000000#32 ∧
    0x40000000#32 = fmul 0x40000000#32 0x3F800000#32 ∧ 0x3EAAAAAB#32 = fdiv 0x3F800000#32 0x40400000#32 ∧
    finiteUnits 0x7F7FFFFF#32 = some (16777215 * 2 ^ 253) := by decide +kernel
theorem witness_ArithmeticRoundsToNearestEven_overflow :
    ¬|(16777215 * 2 ^ 253 + 2 ^ 252 : Int)| < overflowUnits * |1| ∧ finiteUnits 0x73000000#32 = some (2 ^ 252) ∧
    |(16777215 * 2 ^ 253 + (2 ^ 252 - 2 ^ 228) : Int)| < overflowUnits * |1| ∧
    finiteUnits 0x72FFFFFF#32 = some (2 ^ 252 - 2 ^ 228) := by decide +kernel
theorem witness_ArithmeticSpecialValues : (0x7F7FFFFF#32).extractLsb' 23 8 ≠ 0xFF#8 ∧ isNanPattern 0x7F800001#32 ∧
    isNanPattern 0xFFFFFFFF#32 ∧ finiteUnits 0x80000000#32 = some 0 ∧ finiteUnits 0x00000001#32 = some 1 :=
  ⟨by decide, ⟨by decide, by decide⟩, ⟨by decide, by decide⟩, by decide +kernel, by decide +kernel⟩
theorem witness_SineMeetsItsFourProperties : isFinite 0x7F7FFFFF#32 = true ∧ isFinite 0x7F800000#32 = false := by
  decide
/-- The largest finite argument is decided by the enclosure. -/
theorem witness_SineIsCorrectlyRounded : finiteUnits 0x7F7FFFFF#32 = some (16777215 * 2 ^ 253) ∧
    sineLow (16777215 * 2 ^ 253) = sineHigh (16777215 * 2 ^ 253) := by decide +kernel

end Sys2Proof.Tests
end

section
/-! Binary32 patterns as a sign bit and 31 magnitude bits, and rounding as a choice between two neighbouring magnitudes
(spec/00_scope.md R9, G1). -/

namespace Sys2Proof.Machine

/-! ### The value of a magnitude -/

/-- What the 31 magnitude bits of a pattern are worth, in units of 2^-149; infinity's bits count as the step past the
largest finite value, as in `orderKey`. -/
def magUnits (mag : Nat) : Nat :=
  if mag < 2 ^ 23 then mag else (2 ^ 23 + mag % 2 ^ 23) * 2 ^ (mag / 2 ^ 23 - 1)

/-- Inside a binade, its upper end included, the magnitude bits count steps of 2^e units. -/
theorem magUnits_binade {e q : Nat} (hlow : e = 0 ∨ 2 ^ 23 ≤ q) (hhigh : q ≤ 2 ^ 24) :
    magUnits (e * 2 ^ 23 + q) = q * 2 ^ e := by
  unfold magUnits
  by_cases hsub : e * 2 ^ 23 + q < 2 ^ 23
  · obtain rfl : e = 0 := by omega
    rw [if_pos hsub, Nat.zero_mul, Nat.zero_add, pow_zero, Nat.mul_one]
  · rw [if_neg hsub]
    rcases Nat.lt_or_eq_of_le hhigh with hlt | rfl
    · have hexp : (e * 2 ^ 23 + q) / 2 ^ 23 - 1 = e := by omega
      have hfrac : 2 ^ 23 + (e * 2 ^ 23 + q) % 2 ^ 23 = q := by omega
      rw [hexp, hfrac]
    · have hexp : (e * 2 ^ 23 + 2 ^ 24) / 2 ^ 23 - 1 = e + 1 := by omega
      have hfrac : 2 ^ 23 + (e * 2 ^ 23 + 2 ^ 24) % 2 ^ 23 = 2 ^ 23 := by omega
      rw [hexp, hfrac, pow_succ]; ring

theorem magUnits_strictMono : StrictMono magUnits := by
  refine strictMono_nat_of_lt_succ fun mag => ?_
  obtain ⟨e, q, rfl, hlow, hhigh⟩ : ∃ e q, mag = e * 2 ^ 23 + q ∧ (e = 0 ∨ 2 ^ 23 ≤ q) ∧ q < 2 ^ 24 :=
    ⟨mag / 2 ^ 23 - 1, mag - (mag / 2 ^ 23 - 1) * 2 ^ 23, by omega, by omega, by omega⟩
  rw [Nat.add_assoc, magUnits_binade hlow hhigh.le, magUnits_binade (by omega) hhigh]
  exact Nat.mul_lt_mul_of_pos_right q.lt_succ_self (by positivity)

theorem magUnits_mul_lt {lo hi den : Nat} (hden : 0 < den) (h : lo < hi) : magUnits lo * den < magUnits hi * den :=
  Nat.mul_lt_mul_of_pos_right (magUnits_strictMono h) hden

@[simp] theorem magUnits_zero : magUnits 0 = 0 := rfl

/-- The largest finite magnitude, in half steps of its binade. -/
theorem magUnits_max : magUnits 0x7F7FFFFF = (2 ^ 25 - 2) * 2 ^ 252 := by decide

/-- Infinity's magnitude, in the same half steps. -/
theorem magUnits_inf : magUnits 0x7F800000 = 2 ^ 25 * 2 ^ 252 := by decide

/-! ### Rounding -/

/-- `roundMag` before it saturates at infinity. -/
def roundSteps (num den : Nat) : Nat :=
  let e := Nat.log2 (num / den) - 23
  e * 2 ^ 23 + divRoundEven num (den * 2 ^ e)

theorem roundMag_eq_min (num den : Nat) : roundMag num den = min (roundSteps num den) 0x7F800000 := rfl

/-- How far `magUnits mag` is from `num / den`, times `den`. -/
def magError (num den mag : Nat) : Nat := ((magUnits mag * den : Int) - num).natAbs

@[simp] theorem magError_zero (num den : Nat) : magError num den 0 = num := by
  rw [magError, magUnits_zero, Nat.cast_zero, zero_mul, zero_sub, Int.natAbs_neg, Int.natAbs_natCast]

/-- Every quotient lies between two neighbouring magnitudes, and the rounding takes the nearer of them, the even one
on a tie. -/
theorem roundSteps_neighbours (num : Nat) {den : Nat} (hden : 0 < den) :
    ∃ mag, magUnits mag * den ≤ num ∧ num < magUnits (mag + 1) * den ∧
      roundSteps num den =
        if num - magUnits mag * den < magUnits (mag + 1) * den - num ∨
            num - magUnits mag * den = magUnits (mag + 1) * den - num ∧ mag % 2 = 0
          then mag else mag + 1 := by
  set e := Nat.log2 (num / den) - 23 with he
  set q := num / (den * 2 ^ e) with hq
  have hstep : 0 < den * 2 ^ e := by positivity
  have hquot : q = num / den / 2 ^ e := by rw [hq, Nat.div_div_eq_div_mul]
  have hhigh : q < 2 ^ 24 := by
    rw [hquot, Nat.div_lt_iff_lt_mul (by positivity), ← pow_add]
    exact Nat.lt_log2_self.trans_le (Nat.pow_le_pow_right (by norm_num) (by omega))
  have hlow : e = 0 ∨ 2 ^ 23 ≤ q := by
    refine or_iff_not_imp_left.mpr fun hpos => ?_
    have hlog : 23 + e = Nat.log2 (num / den) := by omega
    have hne : num / den ≠ 0 := fun h => by rw [h, Nat.log2_zero] at hlog; omega
    rw [hquot, Nat.le_div_iff_mul_le (by positivity), ← pow_add, hlog]
    exact Nat.log2_self_le hne
  have hbelow : magUnits (e * 2 ^ 23 + q) * den = den * 2 ^ e * q := by
    rw [magUnits_binade hlow hhigh.le]; ring
  have habove : magUnits (e * 2 ^ 23 + q + 1) * den = den * 2 ^ e * q + den * 2 ^ e := by
    rw [Nat.add_assoc, magUnits_binade (by omega) hhigh, Nat.succ_eq_add_one]; ring
  have hdiv := Nat.div_add_mod num (den * 2 ^ e)
  have hmod := Nat.mod_lt num hstep
  rw [← hq] at hdiv
  refine ⟨e * 2 ^ 23 + q, by omega, by omega, ?_⟩
  simp only [roundSteps, divRoundEven, ← he, ← hq, hbelow, habove]
  split <;> split <;> omega

/-- The rounded magnitude is nearest, and even on a tie with another. -/
theorem roundSteps_nearest (num : Nat) {den : Nat} (hden : 0 < den) (mag : Nat) :
    magError num den (roundSteps num den) ≤ magError num den mag ∧
      (magError num den (roundSteps num den) = magError num den mag →
        roundSteps num den = mag ∨ roundSteps num den % 2 = 0) := by
  obtain ⟨below, hle, hlt, hround⟩ := roundSteps_neighbours num hden
  rw [hround]
  have hmag : mag < below ∨ mag = below ∨ mag = below + 1 ∨ below + 1 < mag := by omega
  unfold magError
  obtain h | rfl | rfl | h := hmag
  · have := magUnits_mul_lt hden h
    split <;> omega
  · split <;> omega
  · split <;> omega
  · have := magUnits_mul_lt hden h
    split <;> omega

/-- Rounding reaches infinity exactly from the overflow threshold on. -/
theorem roundSteps_lt_inf_iff (num : Nat) {den : Nat} (hden : 0 < den) :
    roundSteps num den < 0x7F800000 ↔ num < (2 ^ 25 - 1) * 2 ^ 252 * den := by
  have hmax : magUnits 0x7F7FFFFF * den = (2 ^ 25 - 2) * (2 ^ 252 * den) := by rw [magUnits_max, Nat.mul_assoc]
  have hinf : magUnits 0x7F800000 * den = 2 ^ 25 * (2 ^ 252 * den) := by rw [magUnits_inf, Nat.mul_assoc]
  have hpos : 0 < 2 ^ 252 * den := by positivity
  obtain ⟨hnearMax, -⟩ := roundSteps_nearest num hden 0x7F7FFFFF
  obtain ⟨hnearInf, htieInf⟩ := roundSteps_nearest num hden 0x7F800000
  rw [Nat.mul_assoc]
  generalize 2 ^ 252 * den = unit at *
  unfold magError at *
  obtain hlt | heq | heq | hgt : roundSteps num den < 0x7F7FFFFF ∨ roundSteps num den = 0x7F7FFFFF ∨
      roundSteps num den = 0x7F800000 ∨ 0x7F800000 < roundSteps num den := by omega
  · have := magUnits_mul_lt hden hlt
    omega
  · rw [heq] at hnearInf htieInf ⊢
    omega
  · rw [heq] at hnearMax ⊢
    omega
  · have := magUnits_mul_lt hden hgt
    omega

/-! ### Patterns as sign and magnitude -/

/-- The 31 bits below the sign. -/
def magBits (x : F32) : Nat := x.toNat % 2 ^ 31

theorem signBit_eq (x : F32) : signBit x = decide (2 ^ 31 ≤ x.toNat) := by
  have h := x.isLt
  rw [signBit, BitVec.getLsbD, Nat.testBit_eq_decide_div_mod_eq]
  simp only [decide_eq_decide]
  omega

theorem magBits_lt (x : F32) : magBits x < 2 ^ 31 := Nat.mod_lt _ (by norm_num)

theorem toNat_eq_sign_add_magBits (x : F32) : x.toNat = (if signBit x then 2 ^ 31 else 0) + magBits x := by
  have h := x.isLt
  rw [signBit_eq, magBits]
  split <;> simp_all <;> omega

theorem packSign_signBit_magBits (x : F32) : packSign (signBit x) (magBits x) = x := by
  have h := toNat_eq_sign_add_magBits x
  apply BitVec.eq_of_toNat_eq
  rw [packSign, BitVec.toNat_ofNat, ← Nat.mod_eq_of_lt x.isLt, h]
  split <;> simp_all

@[simp] theorem signBit_packSign {neg : Bool} {mag : Nat} (h : mag ≤ 0x7F800000) :
    signBit (packSign neg mag) = neg := by
  rw [signBit_eq, packSign_toNat h]
  cases neg <;> simp; omega

@[simp] theorem magBits_packSign {neg : Bool} {mag : Nat} (h : mag ≤ 0x7F800000) :
    magBits (packSign neg mag) = mag := by
  rw [magBits, packSign_toNat h]
  cases neg <;> simp <;> omega

theorem packSign_zero (neg : Bool) : packSign neg 0 = zeroOf neg := by cases neg <;> rfl

theorem packSign_inf (neg : Bool) : packSign neg 0x7F800000 = infOf neg := by cases neg <;> rfl

@[simp] theorem signedInf_eq (neg : Bool) : signedInf neg = infOf neg := packSign_inf neg

@[simp] theorem signedZero_eq (neg : Bool) : signedZero neg = zeroOf neg := packSign_zero neg

theorem unpack_of_inf_lt {x : F32} (h : 0x7F800000 < magBits x) : unpack x = .nan := by
  have hlt := magBits_lt x
  have hx := toNat_eq_sign_add_magBits x
  have he : x.toNat / 2 ^ 23 % 256 = 255 := by split at hx <;> omega
  have hf : x.toNat % 2 ^ 23 ≠ 0 := by split at hx <;> omega
  simp only [unpack, he, hf, if_true, if_false]

theorem unpack_of_eq_inf {x : F32} (h : magBits x = 0x7F800000) : unpack x = .inf (signBit x) := by
  conv_lhs => rw [← packSign_signBit_magBits x, unpack_packSign h.le, if_pos h]

theorem unpack_of_lt_inf {x : F32} (h : magBits x < 0x7F800000) :
    ∃ m e, unpack x = .fin (signBit x) m e ∧ m * 2 ^ e = magUnits (magBits x) := by
  conv in unpack x => rw [← packSign_signBit_magBits x, unpack_packSign h.le, if_neg h.ne]
  unfold magUnits
  split
  · exact ⟨_, _, rfl, by simp⟩
  · exact ⟨_, _, rfl, rfl⟩

theorem exponentField_toNat (x : F32) : (x.extractLsb' 23 8).toNat = magBits x / 2 ^ 23 := by
  rw [BitVec.extractLsb'_toNat, Nat.shiftRight_eq_div_pow, magBits]
  omega

theorem fractionField_toNat (x : F32) : (x.extractLsb' 0 23).toNat = magBits x % 2 ^ 23 := by
  rw [BitVec.extractLsb'_toNat, Nat.shiftRight_eq_div_pow, magBits]
  omega

theorem isNanPattern_iff (x : F32) : isNanPattern x ↔ 0x7F800000 < magBits x := by
  have hlt := magBits_lt x
  rw [isNanPattern, ← BitVec.toNat_inj, Ne, ← BitVec.toNat_inj, exponentField_toNat, fractionField_toNat,
    BitVec.toNat_ofNat, BitVec.toNat_ofNat]
  omega

/-- A pattern is finite, an infinity or a NaN by its magnitude bits alone. -/
theorem pattern_cases (x : F32) :
    (isNanPattern x ∧ unpack x = .nan ∧ 0x7F800000 < magBits x) ∨
    (x = infOf (signBit x) ∧ unpack x = .inf (signBit x) ∧ magBits x = 0x7F800000) ∨
    ∃ m e, unpack x = .fin (signBit x) m e ∧ m * 2 ^ e = magUnits (magBits x) ∧ magBits x < 0x7F800000 := by
  obtain hlt | heq | hgt := Nat.lt_trichotomy (magBits x) 0x7F800000
  · obtain ⟨m, e, hx, hval⟩ := unpack_of_lt_inf hlt
    exact .inr (.inr ⟨m, e, hx, hval, hlt⟩)
  · refine .inr (.inl ⟨?_, unpack_of_eq_inf heq, heq⟩)
    rw [← packSign_inf, ← heq, packSign_signBit_magBits]
  · exact .inl ⟨(isNanPattern_iff x).mpr hgt, unpack_of_inf_lt hgt, hgt⟩

@[simp] theorem unpack_infOf (neg : Bool) : unpack (infOf neg) = .inf neg := by cases neg <;> decide

/-! ### Signed values -/

@[simp] theorem signedUnits_neg (neg : Bool) (m e : Nat) : signedUnits (!neg) m e = -signedUnits neg m e := by
  cases neg <;> simp [signedUnits]

theorem signedUnits_congr (neg : Bool) {m e n d : Nat} (h : m * 2 ^ e = n * 2 ^ d) :
    signedUnits neg m e = signedUnits neg n d := by
  simp only [signedUnits, h]

/-- A finite pattern is worth its magnitude with its sign; an infinity orders as the step past the largest. -/
theorem orderKey_eq (x : F32) : orderKey x =
    if 0x7F800000 < magBits x then none else some (signedUnits (signBit x) (magUnits (magBits x)) 0) := by
  obtain ⟨-, hx, hmag⟩ | ⟨-, hx, hmag⟩ | ⟨m, e, hx, hval, hmag⟩ := pattern_cases x
  · simp [orderKey, hx, hmag]
  · rw [orderKey, hx, hmag, if_neg (lt_irrefl _)]
    exact congrArg some (signedUnits_congr _ (by decide))
  · rw [orderKey, hx, if_neg hmag.not_gt]
    exact congrArg some (signedUnits_congr _ (by simpa using hval))

theorem finiteUnits_eq (x : F32) : finiteUnits x =
    if magBits x < 0x7F800000 then some (signedUnits (signBit x) (magUnits (magBits x)) 0) else none := by
  obtain ⟨-, hx, hmag⟩ | ⟨-, hx, hmag⟩ | ⟨m, e, hx, hval, hmag⟩ := pattern_cases x
  · simp [finiteUnits, isFinite, hx, hmag.not_gt]
  · simp [finiteUnits, isFinite, hx, hmag]
  · simp [finiteUnits, isFinite, hx, hmag, orderKey_eq, hmag.not_gt]

theorem finiteUnits_packSign (neg : Bool) {mag : Nat} (h : mag < 0x7F800000) :
    finiteUnits (packSign neg mag) = some (signedUnits neg (magUnits mag) 0) := by
  rw [finiteUnits_eq, magBits_packSign h.le, if_pos h, signBit_packSign h.le]

/-- What the operations see of a finite operand. -/
theorem unpack_of_finiteUnits {x : F32} {k : Int} (h : finiteUnits x = some k) :
    ∃ m e, unpack x = .fin (signBit x) m e ∧ k = signedUnits (signBit x) m e := by
  rw [finiteUnits_eq] at h
  split_ifs at h with hfin
  obtain ⟨m, e, hx, hval⟩ := unpack_of_lt_inf hfin
  exact ⟨m, e, hx, Option.some_inj.mp h ▸ signedUnits_congr _ (by simpa using hval.symm)⟩

/-! ### Rounding meets its specification -/

theorem abs_signedUnits (neg : Bool) (m e : Nat) : |signedUnits neg m e| = (m * 2 ^ e : Nat) := by
  cases neg <;> simp [signedUnits]

theorem error_not_not (s t : Bool) (mag m e den : Nat) :
    |signedUnits (!s) mag 0 * den - signedUnits (!t) m e| = |signedUnits s mag 0 * den - signedUnits t m e| := by
  rw [signedUnits_neg, signedUnits_neg, ← abs_neg]
  ring_nf

theorem error_same_sign (neg : Bool) (mag m e den : Nat) :
    |signedUnits neg (magUnits mag) 0 * den - signedUnits neg m e| = magError (m * 2 ^ e) den mag := by
  have hpos : |signedUnits false (magUnits mag) 0 * den - signedUnits false m e| = magError (m * 2 ^ e) den mag := by
    simp [magError, signedUnits]
  cases neg
  · exact hpos
  · rwa [← Bool.not_false, error_not_not]

theorem error_other_sign {neg other : Bool} (h : other ≠ neg) (mag m e den : Nat) :
    |signedUnits other mag 0 * den - signedUnits neg m e| = (mag * den + m * 2 ^ e : Nat) := by
  have hpos : |signedUnits false mag 0 * den - signedUnits true m e| = (mag * den + m * 2 ^ e : Nat) := by
    have hnonneg : (0 : Int) ≤ mag * den + m * 2 ^ e := by positivity
    simpa [signedUnits] using hnonneg
  obtain rfl := Bool.eq_not_of_ne h
  cases neg
  · rwa [← Bool.not_true, error_not_not]
  · exact hpos

theorem roundsTo_neg_neg {r : F32} {num den : Int} (h : roundsTo r num den) : roundsTo r (-num) (-den) := by
  have herr (k : Int) : |k * -den - -num| = |k * den - num| := by rw [← abs_neg]; ring_nf
  simpa only [roundsTo, abs_neg, herr, neg_mul_neg] using h

theorem getLsbD_zero_packSign {neg : Bool} {mag : Nat} (h : mag % 2 = 0) : (packSign neg mag).getLsbD 0 = false := by
  rw [packSign, BitVec.getLsbD, BitVec.toNat_ofNat, Nat.testBit_zero, decide_eq_false_iff_not]
  split <;> omega

/-- With either sign, no finite value is nearer than the rounded magnitude: one of the other sign is farther than zero
is. -/
theorem signedUnits_nearest (neg : Bool) (m e : Nat) {den : Nat} (hden : 0 < den) {mag : Nat}
    (hmag : roundSteps (m * 2 ^ e) den = mag) {y : F32} {ky : Int} (hy : finiteUnits y = some ky) :
    |signedUnits neg (magUnits mag) 0 * den - signedUnits neg m e| ≤ |ky * den - signedUnits neg m e| ∧
      (|signedUnits neg (magUnits mag) 0 * den - signedUnits neg m e| = |ky * den - signedUnits neg m e| →
        signedUnits neg (magUnits mag) 0 = ky ∨ mag % 2 = 0) := by
  rw [finiteUnits_eq] at hy
  split_ifs at hy
  obtain rfl := Option.some_inj.mp hy
  rw [error_same_sign]
  by_cases hsign : signBit y = neg
  · obtain ⟨hnear, htie⟩ := roundSteps_nearest (m * 2 ^ e) hden (magBits y)
    rw [hmag] at hnear htie
    rw [hsign, error_same_sign, Int.ofNat_le, Int.ofNat_inj]
    exact ⟨hnear, fun h => (htie h).imp_left fun heq => by rw [← heq]⟩
  · obtain ⟨hnear, htie⟩ := roundSteps_nearest (m * 2 ^ e) hden 0
    rw [hmag, magError_zero] at hnear htie
    rw [error_other_sign hsign, Int.ofNat_le, Int.ofNat_inj]
    refine ⟨by omega, fun h => (htie (by omega)).imp_left fun heq => ?_⟩
    have hzero : magUnits (magBits y) = 0 := (Nat.mul_eq_zero.mp (by omega)).resolve_right hden.ne'
    simp [heq, hzero, signedUnits]

theorem decide_signedUnits_mul_neg (neg : Bool) {m e den : Nat} (hnum : 0 < m * 2 ^ e) (hden : 0 < den) :
    decide (signedUnits neg m e * den < 0) = neg := by
  have hmul : (0 : Int) < (m * 2 ^ e : Nat) * den := by exact_mod_cast Nat.mul_pos hnum hden
  cases neg
  · exact decide_eq_false hmul.not_gt
  · exact decide_eq_true ((Int.neg_mul _ _).trans_lt (Int.neg_neg_of_pos hmul))

/-- A magnitude rounded and then given its sign is the exact value rounded to nearest even (R9). -/
theorem roundsTo_packSign (neg : Bool) (m e : Nat) {den : Nat} (hden : 0 < den) :
    roundsTo (packSign neg (roundMag (m * 2 ^ e) den)) (signedUnits neg m e) den := by
  have hthreshold :
      |signedUnits neg m e| < overflowUnits * |(den : Int)| ↔ roundSteps (m * 2 ^ e) den < 0x7F800000 := by
    rw [roundSteps_lt_inf_iff _ hden, abs_signedUnits, Nat.abs_cast, ← Nat.cast_lt (α := Int)]
    norm_num [overflowUnits]
  rw [roundsTo, roundMag_eq_min]
  by_cases hlt : roundSteps (m * 2 ^ e) den < 0x7F800000
  · rw [if_pos (hthreshold.mpr hlt), min_eq_left hlt.le]
    refine ⟨_, finiteUnits_packSign neg hlt, fun y ky hy => ?_⟩
    obtain ⟨hnear, htie⟩ := signedUnits_nearest neg m e hden rfl hy
    exact ⟨hnear, fun h => (htie h).imp_right getLsbD_zero_packSign⟩
  · rw [if_neg (mt hthreshold.mp hlt), min_eq_right (Nat.le_of_not_lt hlt), packSign_inf]
    rw [roundSteps_lt_inf_iff _ hden, Nat.not_lt] at hlt
    rw [decide_signedUnits_mul_neg neg (lt_of_lt_of_le (by positivity) hlt) hden]

/-! ### The operations on finite operands -/

theorem roundMag_zero (den : Nat) : roundMag 0 den = 0 := by
  simp [roundMag, divRoundEven, Nat.log2_zero]

theorem roundSum_of_eq_zero {sum : Int} (h : sum = 0) (bothNeg : Bool) : roundSum sum bothNeg = zeroOf bothNeg := by
  rw [roundSum, if_pos h, signedZero_eq]

theorem roundsTo_roundSum (sum : Int) (bothNeg : Bool) : roundsTo (roundSum sum bothNeg) sum 1 := by
  have hround (neg : Bool) := roundsTo_packSign neg sum.natAbs 0 Nat.one_pos
  unfold roundSum
  split
  · next hzero =>
    simpa [hzero, signedZero, roundMag_zero, signedUnits] using hround bothNeg
  · have hsum : signedUnits (decide (sum < 0)) sum.natAbs 0 = sum := by
      simp only [signedUnits, decide_eq_true_iff]
      split <;> omega
    simpa only [hsum, pow_zero, mul_one, Nat.cast_one] using hround (decide (sum < 0))

theorem signedUnits_mul (s t : Bool) (m n e d : Nat) :
    signedUnits s m e * signedUnits t n d = signedUnits (s ^^ t) (m * n) (e + d) := by
  cases s <;> cases t <;> simp [signedUnits, pow_add] <;> ring

theorem signedUnits_eq_zero_iff (neg : Bool) (m e : Nat) : signedUnits neg m e = 0 ↔ m = 0 := by
  cases neg <;> simp [signedUnits]

section FiniteOperands

variable {a b : F32} {ka kb : Int} (ha : finiteUnits a = some ka) (hb : finiteUnits b = some kb)
include ha hb

theorem fadd_eq_roundSum : fadd a b = roundSum (ka + kb) (signBit a && signBit b) := by
  obtain ⟨m, e, hx, rfl⟩ := unpack_of_finiteUnits ha
  obtain ⟨n, d, hy, rfl⟩ := unpack_of_finiteUnits hb
  rw [fadd, hx, hy]

theorem fmul_roundsTo : roundsTo (fmul a b) (ka * kb) (2 ^ 149) ∧ signBit (fmul a b) = (signBit a ^^ signBit b) := by
  obtain ⟨m, e, hx, rfl⟩ := unpack_of_finiteUnits ha
  obtain ⟨n, d, hy, rfl⟩ := unpack_of_finiteUnits hb
  rw [fmul, hx, hy, signedUnits_mul]
  exact ⟨roundsTo_packSign _ _ _ (by positivity), signBit_packSign (roundMag_le _ _)⟩

theorem fdiv_roundsTo (hne : kb ≠ 0) :
    roundsTo (fdiv a b) (ka * 2 ^ 149) kb ∧ signBit (fdiv a b) = (signBit a ^^ signBit b) := by
  obtain ⟨m, e, hx, rfl⟩ := unpack_of_finiteUnits ha
  obtain ⟨n, d, hy, rfl⟩ := unpack_of_finiteUnits hb
  have hn : n ≠ 0 := (signedUnits_eq_zero_iff _ _ _).not.mp hne
  have hnum : signedUnits (signBit a) m e * 2 ^ 149 = signedUnits (signBit a) m (e + 149) := by
    have hunit : signedUnits false 1 149 = 2 ^ 149 := rfl
    rw [← hunit, signedUnits_mul, Bool.xor_false, Nat.mul_one]
  rw [fdiv, hx, hy, hnum]
  simp only [if_neg hn]
  refine ⟨?_, signBit_packSign (roundMag_le _ _)⟩
  have hden : 0 < n * 2 ^ d := by positivity
  cases signBit b
  · rw [Bool.xor_false]
    exact roundsTo_packSign (signBit a) m (e + 149) hden
  · have hround := roundsTo_neg_neg (roundsTo_packSign (!signBit a) m (e + 149) hden)
    rwa [signedUnits_neg, neg_neg, ← Bool.xor_true] at hround

end FiniteOperands

@[simp] theorem signBit_fneg (x : F32) : signBit (fneg x) = !signBit x := by
  simp [signBit, fneg]

@[simp] theorem magBits_fneg (x : F32) : magBits (fneg x) = magBits x := by
  rw [magBits, magBits, fneg, BitVec.toNat_xor, Nat.xor_mod_two_pow]
  simp

theorem finiteUnits_fneg {x : F32} {k : Int} (h : finiteUnits x = some k) : finiteUnits (fneg x) = some (-k) := by
  rw [finiteUnits_eq] at h ⊢
  split_ifs at h
  simp_all

theorem cvt32_roundsTo (n : Nat) : roundsTo (cvt32 n) (n * 2 ^ 149) 1 ∧ signBit (cvt32 n) = false :=
  ⟨by exact_mod_cast roundsTo_packSign false n 149 Nat.one_pos, signBit_packSign (roundMag_le _ _)⟩

/-- Settles O57: a sum, a signed product or quotient, and a converted number each are one rounded magnitude. -/
theorem arithmeticRoundsToNearestEven : Obligations.ArithmeticRoundsToNearestEven := by
  refine ⟨fun a b ka kb ha hb => ?_, cvt32_roundsTo⟩
  have hsub : fsub a b = roundSum (ka - kb) (signBit a && !signBit b) := by
    rw [fsub, fadd_eq_roundSum ha (finiteUnits_fneg hb), signBit_fneg, Int.sub_eq_add_neg]
  obtain ⟨hmul, hmulSign⟩ := fmul_roundsTo ha hb
  rw [fadd_eq_roundSum ha hb, hsub]
  refine ⟨roundsTo_roundSum _ _, roundsTo_roundSum _ _, hmul, fdiv_roundsTo ha hb, hmulSign,
    fun h => roundSum_of_eq_zero h _, fun h => roundSum_of_eq_zero h _⟩

/-! ### The fields of a pattern, and the special values -/

theorem finiteUnits_of_fields {x : F32} (h : x.extractLsb' 23 8 ≠ 0xFF#8) :
    finiteUnits x = some ((if signBit x then -1 else 1) *
      (if x.extractLsb' 23 8 = 0#8 then ((x.extractLsb' 0 23).toNat : Int)
        else (2 ^ 23 + ((x.extractLsb' 0 23).toNat : Int)) * 2 ^ ((x.extractLsb' 23 8).toNat - 1))) := by
  have hlt := magBits_lt x
  rw [Ne, ← BitVec.toNat_inj, exponentField_toNat] at h
  have hfin : magBits x < 0x7F800000 := by
    have : magBits x / 2 ^ 23 ≠ 255 := h
    omega
  have hval : (magUnits (magBits x) : Int) = if x.extractLsb' 23 8 = 0#8 then ((x.extractLsb' 0 23).toNat : Int)
      else (2 ^ 23 + ((x.extractLsb' 0 23).toNat : Int)) * 2 ^ ((x.extractLsb' 23 8).toNat - 1) := by
    have hzero : x.extractLsb' 23 8 = 0#8 ↔ magBits x < 2 ^ 23 := by
      rw [← BitVec.toNat_inj, exponentField_toNat, BitVec.toNat_ofNat]
      omega
    rw [exponentField_toNat, fractionField_toNat, magUnits]
    by_cases hsub : magBits x < 2 ^ 23
    · rw [if_pos hsub, if_pos (hzero.mpr hsub), Nat.mod_eq_of_lt hsub]
    · rw [if_neg hsub, if_neg (mt hzero.mp hsub)]
      push_cast; rfl
  rw [finiteUnits_eq, if_pos hfin, ← hval]
  cases signBit x <;> simp [signedUnits]

theorem isFinite_eq_false_iff (x : F32) : isFinite x = false ↔ isNanPattern x ∨ ∃ neg, x = infOf neg := by
  obtain ⟨hnan, hx, -⟩ | ⟨hinf, hx, -⟩ | ⟨m, e, hx, -, hmag⟩ := pattern_cases x
  · simp [isFinite, hx, hnan]
  · simp only [isFinite, hx, true_iff]
    exact .inr ⟨_, hinf⟩
  · have hne (neg : Bool) : x ≠ infOf neg := by rintro rfl; simp at hx
    simp [isFinite, hx, isNanPattern_iff, hmag.not_gt, hne]

theorem isNanPattern_arithNan : isNanPattern arithNan := ⟨by decide, by decide⟩

theorem unpack_of_isNanPattern {x : F32} (h : isNanPattern x) : unpack x = .nan :=
  unpack_of_inf_lt ((isNanPattern_iff x).mp h)

theorem isNanPattern_fneg {x : F32} (h : isNanPattern x) : isNanPattern (fneg x) := by
  rwa [isNanPattern_iff, magBits_fneg, ← isNanPattern_iff]

@[simp] theorem fneg_infOf (neg : Bool) : fneg (infOf neg) = infOf (!neg) := by cases neg <;> rfl

/-- A NaN operand makes every result NaN and every comparison false. -/
theorem nan_propagates {a b : F32} (h : isNanPattern a ∨ isNanPattern b) :
    isNanPattern (fadd a b) ∧ isNanPattern (fsub a b) ∧ isNanPattern (fmul a b) ∧ isNanPattern (fdiv a b) ∧
      fge a b = false ∧ fgt a b = false := by
  have hfsub : fsub a b = fadd a (fneg b) := rfl
  obtain h | h := h
  · have hu := unpack_of_isNanPattern h
    rw [hfsub, fadd_nan_left _ hu, fadd_nan_left _ hu, fmul_nan_left _ hu, fdiv_nan_left _ hu]
    simp [isNanPattern_arithNan, fge, fgt, (orderKey_eq_none_iff a).mpr hu]
  · have hu := unpack_of_isNanPattern h
    have hneg := unpack_of_isNanPattern (isNanPattern_fneg h)
    rw [hfsub, fadd_nan_right _ hu, fadd_nan_right _ hneg, fmul_nan_right _ hu, fdiv_nan_right _ hu]
    simp [isNanPattern_arithNan, fge, fgt, (orderKey_eq_none_iff b).mpr hu]

/-! ### Comparison -/

/-- The key of +inf, the step past the largest finite value. -/
def infUnits : Int := magUnits 0x7F800000

theorem infUnits_pos : 0 < infUnits := by rw [infUnits, magUnits_inf]; norm_num

theorem orderKey_infOf (neg : Bool) : orderKey (infOf neg) = some (if neg then -infUnits else infUnits) := by
  rw [orderKey, unpack_infOf, infUnits, magUnits_inf]
  cases neg <;> rfl

theorem orderKey_of_finiteUnits {x : F32} {k : Int} (h : finiteUnits x = some k) : orderKey x = some k := by
  rw [finiteUnits] at h
  split at h <;> simp_all

theorem abs_lt_infUnits {x : F32} {k : Int} (h : finiteUnits x = some k) : |k| < infUnits := by
  rw [finiteUnits_eq] at h
  split_ifs at h with hfin
  rw [← Option.some_inj.mp h, abs_signedUnits, pow_zero, Nat.mul_one, infUnits, Int.ofNat_lt]
  exact magUnits_strictMono hfin

theorem fge_eq {a b : F32} {x y : Int} (ha : orderKey a = some x) (hb : orderKey b = some y) :
    fge a b = decide (y ≤ x) := by rw [fge, ha, hb]

theorem fgt_eq {a b : F32} {x y : Int} (ha : orderKey a = some x) (hb : orderKey b = some y) :
    fgt a b = decide (y < x) := by rw [fgt, ha, hb]

theorem inf_compare (s t : Bool) :
    fge (infOf s) (infOf t) = (!s || t) ∧ fgt (infOf s) (infOf t) = (!s && t) := by
  have hpos := infUnits_pos
  rw [fge_eq (orderKey_infOf s) (orderKey_infOf t), fgt_eq (orderKey_infOf s) (orderKey_infOf t)]
  cases s <;> cases t <;> simp <;> omega

/-- Every finite value lies strictly between the infinities. -/
theorem inf_compare_finite (s : Bool) {x : F32} {k : Int} (hx : finiteUnits x = some k) :
    fge (infOf s) x = !s ∧ fgt (infOf s) x = !s ∧ fge x (infOf s) = s ∧ fgt x (infOf s) = s := by
  have hkey := orderKey_of_finiteUnits hx
  have hinf := orderKey_infOf s
  obtain ⟨hlow, hhigh⟩ := abs_lt.mp (abs_lt_infUnits hx)
  rw [fge_eq hinf hkey, fgt_eq hinf hkey, fge_eq hkey hinf, fgt_eq hkey hinf]
  cases s <;> simp <;> omega

theorem finite_compare {a b : F32} {ka kb : Int} (ha : finiteUnits a = some ka) (hb : finiteUnits b = some kb) :
    (fge a b = true ↔ kb ≤ ka) ∧ (fgt a b = true ↔ kb < ka) := by
  have hka := orderKey_of_finiteUnits ha
  have hkb := orderKey_of_finiteUnits hb
  rw [fge_eq hka hkb, fgt_eq hka hkb, decide_eq_true_iff, decide_eq_true_iff]
  exact ⟨Iff.rfl, Iff.rfl⟩

/-! ### Infinities in arithmetic -/

/-- Two infinities: NaN for inf - inf and inf / inf (R9). -/
theorem inf_with_inf (s t : Bool) :
    (if s = t then fadd (infOf s) (infOf t) = infOf s else isNanPattern (fadd (infOf s) (infOf t))) ∧
    (if s = t then isNanPattern (fsub (infOf s) (infOf t)) else fsub (infOf s) (infOf t) = infOf s) ∧
    fmul (infOf s) (infOf t) = infOf (s ^^ t) ∧ isNanPattern (fdiv (infOf s) (infOf t)) ∧
    fge (infOf s) (infOf t) = (!s || t) ∧ fgt (infOf s) (infOf t) = (!s && t) := by
  have hadd (s t : Bool) : fadd (infOf s) (infOf t) = if s = t then infOf s else arithNan := by simp [fadd]
  obtain ⟨hge, hgt⟩ := inf_compare s t
  simp only [fsub, fneg_infOf, hadd, fmul, fdiv, unpack_infOf, signedInf_eq, true_and]
  by_cases h : s = t
  · subst h
    simp [isNanPattern_arithNan, hge, hgt]
  · obtain rfl := Bool.eq_not_of_ne h
    simp [isNanPattern_arithNan, hge, hgt]

/-- An infinity and a finite value: NaN only for 0 * inf (R9). -/
theorem inf_with_finite (s : Bool) {x : F32} {k : Int} (hx : finiteUnits x = some k) :
    fadd (infOf s) x = infOf s ∧ fadd x (infOf s) = infOf s ∧ fsub (infOf s) x = infOf s ∧
    fsub x (infOf s) = infOf (!s) ∧ fdiv (infOf s) x = infOf (s ^^ signBit x) ∧
    fdiv x (infOf s) = zeroOf (signBit x ^^ s) ∧
    (if k = 0 then isNanPattern (fmul (infOf s) x) ∧ isNanPattern (fmul x (infOf s))
      else fmul (infOf s) x = infOf (s ^^ signBit x) ∧ fmul x (infOf s) = infOf (s ^^ signBit x)) ∧
    fge (infOf s) x = !s ∧ fgt (infOf s) x = !s ∧ fge x (infOf s) = s ∧ fgt x (infOf s) = s := by
  obtain ⟨m, e, hu, hk⟩ := unpack_of_finiteUnits hx
  obtain ⟨n, d, hneg, -⟩ := unpack_of_finiteUnits (finiteUnits_fneg hx)
  have hzero : k = 0 ↔ m = 0 := by rw [hk, signedUnits_eq_zero_iff]
  simp only [fsub, fneg_infOf, fadd, fmul, fdiv, unpack_infOf, hu, hneg, signedInf_eq, signedZero_eq, hzero,
    true_and]
  refine ⟨?_, inf_compare_finite s hx⟩
  split <;> simp [isNanPattern_arithNan, Bool.xor_comm]

theorem fdiv_by_zero {a b : F32} {ka : Int} (ha : finiteUnits a = some ka) (hb : finiteUnits b = some 0) :
    if ka = 0 then isNanPattern (fdiv a b) else fdiv a b = infOf (signBit a ^^ signBit b) := by
  obtain ⟨m, e, hx, rfl⟩ := unpack_of_finiteUnits ha
  obtain ⟨n, d, hy, hzero⟩ := unpack_of_finiteUnits hb
  have hn : n = 0 := (signedUnits_eq_zero_iff _ _ _).mp hzero.symm
  simp only [fdiv, hx, hy, hn, if_true, signedUnits_eq_zero_iff, signedInf_eq]
  split <;> simp [isNanPattern_arithNan]

/-- Settles O58, kind of operand by kind of operand. -/
theorem arithmeticSpecialValues : Obligations.ArithmeticSpecialValues :=
  ⟨fun _ => finiteUnits_of_fields, isFinite_eq_false_iff, fun _ _ => nan_propagates, inf_with_inf,
    fun s _ _ => inf_with_finite s, fun _ _ _ _ ha hb =>
      have ⟨hge, hgt⟩ := finite_compare ha hb
      ⟨hge, hgt, fun hzero => fdiv_by_zero ha (hzero ▸ hb)⟩⟩

end Sys2Proof.Machine
end

section
/-! What a command's work and one step can do, each said once as a relation with one case per outcome
(spec/20_memory.md R62 to R64, spec/45_host_commands.md). The statements about steps are case analyses on these. -/

namespace Sys2Proof.Machine

/-! ### A command's work -/

/-- The state that the work of command `i`, started in `s`, can leave before its response. -/
inductive Work (i : Instr) (s : State) : State → Prop where
  /-- A query, a refusal or an operand that names nothing: no change. -/
  | none : Work i s s
  /-- PSET of a cell that exists (R141). -/
  | pset {index : Byte} {value : F32} {cell : Fin 17} (hi : i = .pset index value)
      (hcell : paramCell? index = some cell) : Work i s (writeParam cell value s)
  /-- CWR of a register that exists (R167). -/
  | control {reg : Byte} {value : Word} {r : ControlReg} (hs : s.issuer = .h) (hi : i = .cwr reg value)
      (hr : controlReg? reg = some r) : Work i s (writeControl r value s)
  /-- A valid note-on: the voices that stay, then the fresh one (R90). -/
  | noteOn {note velocity : Byte} {kept : List Voice} (hs : s.issuer = .h) (hi : isNoteOn i note velocity)
      (hnote : note.toNat ≤ 127) (hvelocity : velocity.toNat ≤ 127) (hkept : kept.Sublist s.voices)
      (hlen : s.voices.length ≤ 16 → kept.length < 16) :
      Work i s { s with voices := kept ++ [freshVoice note velocity] }
  /-- A note-off with a match (R91). -/
  | noteOff {note : Byte} {pre post : List Voice} {v : Voice} (hs : s.issuer = .h) (hi : isNoteOff i note)
      (hpool : s.voices = pre ++ v :: post) (hmatch : offMatches s.offMode note v = true) :
      Work i s { s with voices := pre ++ if s.offMode then v.release :: post else post }
  /-- RENDER of an accepted block (R150). -/
  | render {c : Byte} {n : BitVec 16} (hs : s.issuer = .h) (hi : i = .render c n)
      (hrange : renderInRange c n = true) :
      Work i s (renderFinish ⟨s.params, c, n⟩ (renderBegin c n s)).state

theorem work_portHOnly {i : Instr} {s : State} {body : State → Reply}
    (h : s.issuer = .h → Work i s (body s).state) : Work i s (portHOnly body s).state := by
  cases hs : s.issuer with
  | h => rw [portHOnly_h body hs]; exact h hs
  | a => rw [portHOnly_a body hs]; exact .none

theorem work_psetState (index : Byte) (value : F32) (s : State) :
    Work (.pset index value) s (psetState index value s) := by
  unfold psetState
  split
  · next hcell => exact .pset rfl hcell
  · exact .none

theorem work_controlWrite {s : State} (hs : s.issuer = .h) (reg : Byte) (value : Word) :
    Work (.cwr reg value) s (controlWrite reg value s).state := by
  unfold controlWrite
  split
  · next hr => exact .control hs rfl hr
  · exact .none

theorem work_vpNoteOn {i : Instr} {s : State} {note velocity : Byte} (hs : s.issuer = .h)
    (hi : isNoteOn i note velocity) : Work i s (vpNoteOn note velocity s).state := by
  unfold vpNoteOn
  rw [newVoice_eq_freshVoice]
  split
  · next hvalid =>
    obtain ⟨hnote, hvelocity⟩ : note.toNat ≤ 127 ∧ velocity.toNat ≤ 127 := by simpa [sevenBit] using hvalid
    dsimp only
    split
    · next hfull =>
      have hne : s.voices ≠ [] := by
        intro hnil; simp [hnil, Config.maxVoices] at hfull
      rw [List.tail_append_of_ne_nil hne]
      refine .noteOn hs hi hnote hvelocity (List.tail_sublist _) fun hle => ?_
      have := List.length_pos_iff.mpr hne
      rw [List.length_tail]; omega
    · next hroom =>
      refine .noteOn hs hi hnote hvelocity (List.Sublist.refl _) fun _ => ?_
      simpa [Config.maxVoices] using hroom
  · exact .none

theorem work_vpNoteOff {i : Instr} {s : State} {note : Byte} (hs : s.issuer = .h) (hi : isNoteOff i note) :
    Work i s (vpNoteOff note s).state := by
  unfold vpNoteOff
  rcases noteOffScan_cases s.offMode note s.voices with ⟨hnone, -⟩ | ⟨pre, v, post, hpool, -, hmatch, hscan⟩
  · rw [hnone]; exact .none
  · rw [hscan]; exact .noteOff hs hi hpool hmatch

theorem work_renderBlock {s : State} (hs : s.issuer = .h) (c : Byte) (n : BitVec 16) :
    Work (.render c n) s (renderBlock c n s).state := by
  unfold renderBlock
  split
  · next hrange => exact .render hs rfl hrange
  · exact .none

/-- Every command is some work and then its response. -/
theorem exec_eq_complete_work (i : Instr) (s : State) : ∃ r : Reply, exec i s = complete r ∧ Work i s r.state := by
  cases i with
  | nop => exact ⟨_, rfl, .none⟩
  | eventNoteOff d1 d2 => exact ⟨_, rfl, work_portHOnly fun hs => work_vpNoteOff hs (.inr (.inl ⟨d2, rfl⟩))⟩
  | eventNoteOnV0 d1 => exact ⟨_, rfl, work_portHOnly fun hs => work_vpNoteOff hs (.inr (.inr rfl))⟩
  | eventNoteOn d1 d2 => exact ⟨_, rfl, work_portHOnly fun hs => work_vpNoteOn hs (.inr rfl)⟩
  | eventIgnored st d1 d2 => exact ⟨_, rfl, work_portHOnly fun _ => .none⟩
  | noteOn note velocity => exact ⟨_, rfl, work_portHOnly fun hs => work_vpNoteOn hs (.inl rfl)⟩
  | noteOff note => exact ⟨_, rfl, work_portHOnly fun hs => work_vpNoteOff hs (.inl rfl)⟩
  | pset index value => exact ⟨_, rfl, work_psetState index value s⟩
  | pget index => exact ⟨_, rfl, .none⟩
  | render c n => exact ⟨_, rfl, work_portHOnly fun hs => work_renderBlock hs c n⟩
  | cwr reg value => exact ⟨_, rfl, work_portHOnly fun hs => work_controlWrite hs reg value⟩
  | crd reg => exact ⟨_, rfl, work_portHOnly fun _ => by rw [controlRead_state]; exact .none⟩
  | vrd slot sel => exact ⟨_, rfl, work_portHOnly fun _ => by rw [voiceRead_state]; exact .none⟩
  | illegal op => exact ⟨_, rfl, .none⟩

theorem work_of_exec {i : Instr} {s t : State} (h : exec i s = .next t) :
    ∃ r : Reply, t = r.settle ∧ Work i s r.state := by
  obtain ⟨r, hr, hwork⟩ := exec_eq_complete_work i s
  rw [hr] at h
  cases h
  exact ⟨r, rfl, hwork⟩

theorem Work.keepsOutside {i : Instr} {s u : State} (h : Work i s u) : KeepsOutside s u := by
  cases h with
  | none => exact KeepsOutside.refl s
  | pset => exact ⟨rfl, rfl, rfl, rfl, rfl, rfl⟩
  | control => exact writeControl_keeps _ _ s
  | noteOn => exact ⟨rfl, rfl, rfl, rfl, rfl, rfl⟩
  | noteOff => exact ⟨rfl, rfl, rfl, rfl, rfl, rfl⟩
  | @render c n hs hi hrange => simpa only [renderBlock, if_pos hrange] using renderBlock_keeps c n s

/-- A command leaves BUSY and SNAP as they were, or leaves no RENDER in progress (R42). -/
theorem Work.render_eq_or_none {i : Instr} {s u : State} (h : Work i s u) : u.render = s.render ∨ u.render = .none := by
  cases h with
  | none => exact .inl rfl
  | pset => exact .inl rfl
  | @control _ _ r => cases r <;> exact .inl rfl
  | noteOn => exact .inl rfl
  | noteOff => exact .inl rfl
  | render => exact .inr rfl

/-! ### What an access of the host memory port leaves as it was -/

@[simp] theorem performAccess_port (x : MemAccess) (s : State) (p : PortId) :
    (performAccess x s).port p = s.port p := by
  cases x <;> cases p <;> simp [performAccess, State.port]

@[simp] theorem performAccess_render (x : MemAccess) (s : State) : (performAccess x s).render = s.render := by
  cases x <;> simp [performAccess]

@[simp] theorem performAccess_voices (x : MemAccess) (s : State) : (performAccess x s).voices = s.voices := by
  cases x <;> simp [performAccess]

@[simp] theorem performAccess_mode (x : MemAccess) (s : State) : (performAccess x s).mode = s.mode := by
  cases x <;> simp [performAccess]

/-! ### One step -/

/-- The state with the agenda's next move taken off. -/
abbrev State.afterMove (s : State) : State := { s with agenda := s.agenda.tail }

/-- The move a step takes: the agenda's, or the one the arbitration chooses (R64). -/
def chosenMove (s : State) : Move :=
  match s.agenda with
  | m :: _ => m
  | [] => if (fetch .h s).isSome || s.busy then .run .h else if (fetch .a s).isSome then .run .a else .serve

theorem step_eq_takeMove (s : State) : step s = takeMove (chosenMove s) s.afterMove := by
  cases hs : s.agenda with
  | cons m rest => simp only [step, nextMove, chosenMove, State.afterMove, hs, List.tail_cons]
  | nil =>
    have hself : s.afterMove = s := by cases s; cases hs; rfl
    simp only [step, nextMove, chosenMove, hs, hself, arbitrate]
    split
    · rfl
    · split <;> rfl

theorem turn_of_chosenMove {s : State} {m : Move} (h : chosenMove s = m) :
    s.agenda = [] ∨ s.agenda.head? = some m := by
  unfold chosenMove at h
  split at h
  · next hs => right; rw [hs, List.head?_cons, h]
  · next hs => exact .inl hs

theorem resetInput_of_chosenMove {s : State} (h : chosenMove s = .resetInput) :
    s.agenda.head? = some .resetInput := by
  refine (turn_of_chosenMove h).resolve_left fun hs => ?_
  simp only [chosenMove, hs] at h
  split at h
  · cases h
  · split at h <;> cases h

/-- The state that one step from `s` can give. -/
inductive Moved (s : State) : State → Prop where
  /-- The mover had nothing to do. -/
  | idle : Moved s s.afterMove
  | presented (p : PortId) (w : Command) : Moved s (presentCommand p w s.afterMove)
  | requested (x : MemAccess) : Moved s (requestAccess x s.afterMove)
  | reset (hreset : s.agenda.head? = some .resetInput) : Moved s (applyReset s.afterMove)
  /-- A port ran a whole command. -/
  | ran {p : PortId} {i : Instr} {r : Reply} (hturn : s.agenda = [] ∨ s.agenda.head? = some (.run p))
      (hfree : p = .h → s.render = none) (hfetch : (fetch p s).map Sys2Proof.decode = some i)
      (hwork : Work i { s.afterMove with issuer := p } r.state) : Moved s r.settle
  /-- Port H finished its RENDER in progress. -/
  | finished {job : RenderJob} (hjob : s.render = some job) :
      Moved s (renderFinish job { s.afterMove with issuer := .h }).settle
  | latched {c : Byte} {n : BitVec 16} (hfree : s.render = none)
      (hfetch : (fetch .h s).map Sys2Proof.decode = some (.render c n)) (hrange : renderInRange c n = true) :
      Moved s (renderBegin c n s.afterMove)
  | served {x : MemAccess} {rest : List MemAccess} (hfree : s.render = none)
      (hpending : s.memPort.pending = x :: rest) :
      Moved s (performAccess x { s.afterMove with memPort := ⟨rest, s.memPort.answers⟩ })

theorem moved_of_runCommand {p : PortId} {s t : State} (hturn : s.agenda = [] ∨ s.agenda.head? = some (.run p))
    (hfree : p = .h → s.render = none) (h : runCommand p s.afterMove = .next t) : Moved s t := by
  unfold runCommand at h
  split at h
  · cases h; exact .idle
  · next w hw =>
    obtain ⟨r, rfl, hwork⟩ := work_of_exec h
    exact .ran hturn hfree (congrArg (Option.map Sys2Proof.decode) hw) hwork

theorem moved_of_runPort {p : PortId} {s t : State} (hturn : s.agenda = [] ∨ s.agenda.head? = some (.run p))
    (h : runPort p s.afterMove = .next t) : Moved s t := by
  cases p with
  | a => exact moved_of_runCommand hturn (fun e => nomatch e) h
  | h =>
    simp only [runPort] at h
    split at h
    · next hjob => cases h; exact .finished hjob
    · next hfree => exact moved_of_runCommand hturn (fun _ => hfree) h

theorem moved_latchRender (s : State) : Moved s (latchRender s.afterMove) := by
  unfold latchRender
  split
  · next hfree hfetch =>
    split
    · next hrange => exact .latched hfree hfetch hrange
    · exact .idle
  · exact .idle

theorem moved_serveMemory (s : State) : Moved s (serveMemory s.afterMove) := by
  unfold serveMemory
  split
  · exact .idle
  · next hbusy =>
    split
    · exact .idle
    · next hpending => exact .served (by simpa [State.busy] using hbusy) hpending

/-- Everything that one step can do. -/
theorem moved_of_step {s t : State} (h : step s = .next t) : Moved s t := by
  rw [step_eq_takeMove] at h
  cases hm : chosenMove s with rw [hm] at h
  | present p w => cases h; exact .presented p w
  | request x => cases h; exact .requested x
  | resetInput => cases h; exact .reset (resetInput_of_chosenMove hm)
  | run p => exact moved_of_runPort (turn_of_chosenMove hm) h
  | latch => cases h; exact moved_latchRender s
  | serve => cases h; exact moved_serveMemory s

end Sys2Proof.Machine
end

section
/-! The ports from one step to the next: a position and its responses move together (spec/10_state.md R22, R63). -/

namespace Sys2Proof.Machine

/-- What a step that is not the reset input does to a command port's position and responses. -/
def PortAdvances (c d : CommandPort) : Prop :=
  d.position = c.position ∧ d.responses = c.responses ∨
    d.position = c.position + 1 ∧ ∃ r, responseWf r = true ∧ d.responses = c.responses ++ [r]

theorem PortAdvances.refl (c : CommandPort) : PortAdvances c c := .inl ⟨rfl, rfl⟩

theorem responseWord_toNat (st : Status) (data : Word) :
    (responseWord st data).toNat = st.code.toNat * 2 ^ 56 + data.toNat := by
  have hdata := data.isLt
  simp only [responseWord, BitVec.toNat_append, BitVec.toNat_ofNat]
  rw [← Nat.shiftLeft_add_eq_or_of_lt (by omega), ← Nat.shiftLeft_add_eq_or_of_lt (by omega)]
  simp only [Nat.shiftLeft_eq]
  omega

/-- Every response has one of the four codes and bits 55:32 zero (R72, R195). -/
theorem responseWord_wf (st : Status) (data : Word) : responseWf (responseWord st data) = true := by
  have hdata := data.isLt
  have hcode : st.code.toNat ≤ 3 := by cases st <;> decide
  have hzero : (responseWord st data).extractLsb' 32 24 = 0#24 := by
    apply BitVec.eq_of_toNat_eq
    simp only [BitVec.extractLsb'_toNat, responseWord_toNat, Nat.shiftRight_eq_div_pow, BitVec.toNat_ofNat]
    omega
  simp only [responseWf, hzero, beq_self_eq_true, Bool.true_and, decide_eq_true_iff, BitVec.extractLsb'_toNat,
    responseWord_toNat, Nat.shiftRight_eq_div_pow]
  omega

theorem CommandPort.answered_advances (c : CommandPort) (st : Status) (data : Word) :
    PortAdvances c (c.answered (responseWord st data)) :=
  .inr ⟨rfl, _, responseWord_wf st data, rfl⟩

/-- A command's response moves its own port on by one, and no other port. -/
theorem portAdvances_settle {s : State} {r : Reply} (h : KeepsOutside s r.state) (p : PortId) :
    PortAdvances (s.port p) (r.settle.port p) := by
  rw [← h.port p]
  by_cases hp : p = r.state.issuer
  · subst hp
    rw [Reply.settle, respond_port_issuer]
    exact CommandPort.answered_advances _ _ _
  · rw [Reply.settle, respond_port_other _ _ _ _ hp]
    exact PortAdvances.refl _

theorem portAdvances_presentCommand (p q : PortId) (w : Command) (s : State) :
    PortAdvances (s.port p) ((presentCommand q w s).port p) := by
  by_cases hp : p = q
  · subst hp
    simp only [presentCommand, setPort_port_same]
    exact .inl ⟨rfl, rfl⟩
  · rw [presentCommand, setPort_port_other _ _ _ _ hp]
    exact PortAdvances.refl _

/-- In one step a port advances as its responses do, or the reset input sets every port back. -/
theorem Moved.portAdvances {s t : State} (h : Moved s t) :
    (s.agenda.head? = some .resetInput ∧ ∀ p, t.port p = CommandPort.idle) ∨
      ∀ p, PortAdvances (s.port p) (t.port p) := by
  cases h with
  | idle => exact .inr fun p => PortAdvances.refl _
  | presented q w => exact .inr fun p => portAdvances_presentCommand p q w s.afterMove
  | requested x => exact .inr fun p => PortAdvances.refl _
  | reset hreset => exact .inl ⟨hreset, fun p => by cases p <;> rfl⟩
  | ran _ _ _ hwork => exact .inr fun p => (portAdvances_settle hwork.keepsOutside p :)
  | @finished job =>
    exact .inr fun p => (portAdvances_settle (renderFinish_keeps job { s.afterMove with issuer := .h }) p :)
  | latched => exact .inr fun p => PortAdvances.refl _
  | served => exact .inr fun p => by rw [performAccess_port]; exact PortAdvances.refl _

/-- Settles O10, case by case of what a step can do to the ports. -/
theorem positionFollowsResponses : Obligations.PositionFollowsResponses := by
  intro s t p h
  rcases (moved_of_step h).portAdvances with ⟨hreset, hidle⟩ | hadv
  · exact .inr (.inr ⟨hreset, by rw [hidle p]; exact ⟨rfl, rfl⟩⟩)
  · rcases hadv p with hsame | ⟨hpos, r, -, hresp⟩
    · exact .inl hsame
    · exact .inr (.inl ⟨hpos, r, hresp⟩)

end Sys2Proof.Machine
end

section
/-! The sound-state invariant holds at reset and every step keeps it (spec/10_state.md R22 to R42). -/

namespace Sys2Proof.Machine

/-- The part of a sound state that is no port's: SAMPLE_RAM, the voice pool and MODE. -/
structure CoreWf (s : State) : Prop where
  ram : s.ram.wf
  length : s.voices.length ≤ Config.maxVoices
  voices : ∀ v ∈ s.voices, v.wf
  mode : s.mode &&& 0xFFFFFFFC#32 = 0#32

theorem state_wf_iff (s : State) : s.wf ↔ CoreWf s ∧ (∀ p, (s.port p).wf) ∧ s.jobWf := by
  constructor
  · rintro ⟨hram, hlen, hvoices, hmode, hH, hA, hjob⟩
    exact ⟨⟨hram, hlen, hvoices, hmode⟩, fun p => by cases p; exacts [hH, hA], hjob⟩
  · rintro ⟨⟨hram, hlen, hvoices, hmode⟩, hports, hjob⟩
    exact ⟨hram, hlen, hvoices, hmode, hports .h, hports .a, hjob⟩

theorem jobWf_of_render_none {s : State} (h : s.render = none) : s.jobWf := by
  intro job hjob
  simp [h] at hjob

theorem coreWf_reset : CoreWf State.reset :=
  ⟨reset_ram_wf, Nat.zero_le _, (fun _ hv => nomatch hv), rfl⟩

/-- Settles O20. -/
theorem resetStateIsSound : Obligations.ResetStateIsSound :=
  (state_wf_iff _).mpr ⟨coreWf_reset, fun p => by cases p <;> exact ⟨rfl, rfl⟩, jobWf_of_render_none rfl⟩

/-- Settles O18: each reset value as the model writes it, and SAMPLE_RAM with no word written. -/
theorem resetValues : Obligations.ResetValues :=
  ⟨fun _ _ => Vector.getElem_replicate _, rfl, rfl, rfl, rfl, rfl, rfl, rfl, rfl, rfl, rfl, rfl, fun _ ha => if_pos ha⟩

/-! ### Ports and the RENDER in progress -/

theorem PortAdvances.wf {c d : CommandPort} (h : PortAdvances c d) (hc : c.wf) : d.wf := by
  obtain ⟨hlen, hall⟩ := hc
  rcases h with ⟨hpos, hresp⟩ | ⟨hpos, r, hr, hresp⟩
  · exact ⟨by rw [hpos, hresp, hlen], by rw [hresp, hall]⟩
  · exact ⟨by rw [hpos, hresp, List.length_append, hlen, List.length_singleton], by simp [hresp, hall, hr]⟩

theorem Moved.port_wf {s t : State} (h : Moved s t) (hs : ∀ p, (s.port p).wf) (p : PortId) : (t.port p).wf := by
  rcases h.portAdvances with ⟨-, hidle⟩ | hadv
  · rw [hidle p]; exact ⟨rfl, rfl⟩
  · exact (hadv p).wf (hs p)

theorem jobWf_of_same {s t : State} (hs : s.jobWf) (hrender : t.render = s.render)
    (hfetch : ∀ w, fetch .h s = some w → fetch .h t = some w) : t.jobWf := by
  intro job hjob
  obtain ⟨hrange, hhead⟩ := hs job (hrender ▸ hjob)
  obtain ⟨w, hw, hdecode⟩ := Option.map_eq_some_iff.mp hhead
  exact ⟨hrange, by rw [hfetch w hw, Option.map_some, hdecode]⟩

theorem fetch_presentCommand {p : PortId} {s : State} {w : Command} (h : fetch p s = some w) (q : PortId)
    (v : Command) : fetch p (presentCommand q v s) = some w := by
  unfold fetch at h ⊢
  by_cases hp : p = q
  · subst hp
    simp only [presentCommand, setPort_port_same]
    rw [List.head?_append, h, Option.some_or]
  · rw [presentCommand, setPort_port_other _ _ _ _ hp, h]

/-- A command on port H starts with no RENDER in progress; one on port A leaves port H's commands alone. -/
theorem jobWf_settle {s : State} {p : PortId} {i : Instr} {r : Reply} (hs : s.jobWf) (hfree : p = .h → s.render = none)
    (hwork : Work i { s.afterMove with issuer := p } r.state) : r.settle.jobWf := by
  have hkeeps := hwork.keepsOutside
  rcases hwork.render_eq_or_none with hrender | hnone
  · cases p with
    | h => exact jobWf_of_render_none (by rw [Reply.settle, respond_render, hrender]; exact hfree rfl)
    | a =>
      refine jobWf_of_same hs (by rw [Reply.settle, respond_render, hrender]) fun w hw => ?_
      have hissuer : PortId.h ≠ r.state.issuer := by rw [hkeeps.issuer]; exact fun e => nomatch e
      rw [fetch, Reply.settle, respond_port_other _ _ _ _ hissuer, hkeeps.port]
      exact hw
  · exact jobWf_of_render_none (by rw [Reply.settle, respond_render, hnone])

theorem Moved.jobWf {s t : State} (h : Moved s t) (hs : s.jobWf) : t.jobWf := by
  cases h with
  | idle => exact hs
  | presented p w =>
    exact jobWf_of_same hs (presentCommand_render p w _) fun v hv => fetch_presentCommand (s := s.afterMove) hv p w
  | requested x => exact hs
  | reset => exact jobWf_of_render_none rfl
  | ran _ hfree _ hwork => exact jobWf_settle hs hfree hwork
  | finished => exact jobWf_of_render_none (by rw [Reply.settle, respond_render, renderFinish_render])
  | latched _ hfetch hrange =>
    rintro job ⟨rfl⟩
    exact ⟨hrange, hfetch⟩
  | served hfree => exact jobWf_of_render_none (by rw [performAccess_render]; exact hfree)

/-! ### SAMPLE_RAM, the pool and MODE -/

theorem Voice.wf_tick {v : Voice} (h : v.wf) (n : Nat) : (v.tick n).wf :=
  ⟨h.1.trans (le_advanceAge v.age n), h.2⟩

theorem Voice.wf_release (v : Voice) : v.release.wf := ⟨Nat.le_refl _, fun h => nomatch h⟩

theorem freshVoice_wf (note velocity : Byte) : (freshVoice note velocity).wf := ⟨Nat.le_refl _, fun _ => rfl⟩

theorem modeWritten_reserved (value : Word) : modeWritten value &&& 0xFFFFFFFC#32 = 0#32 := by
  rw [modeWritten, BitVec.and_assoc, show 0x00000003#32 &&& 0xFFFFFFFC#32 = 0#32 from rfl, BitVec.and_zero]

theorem mixBlock_ram_wf {s : State} {job : RenderJob} (h : s.ram.wf)
    (hrange : renderInRange job.channels job.samples = true) : (mixBlock job s).ram.wf := by
  have hsum := sumVoices_wf s job h hrange
  unfold mixBlock
  dsimp only
  split
  · exact Memory.zero_wf _ hsum (region_lt hrange)
  · exact hsum

@[simp] theorem renderFinish_ram (job : RenderJob) (s : State) :
    (renderFinish job s).state.ram = (mixBlock job s).ram := rfl

@[simp] theorem renderFinish_mode (job : RenderJob) (s : State) : (renderFinish job s).state.mode = s.mode :=
  (congrArg State.mode (mixBlock_eq job s) :)

/-- The pool after a RENDER: some of the old voices, in their order, each ticked by the block (R95, R96). -/
theorem renderFinish_voices (job : RenderJob) (s : State) : ∃ old : List Voice, old.Sublist s.voices ∧
    (renderFinish job s).state.voices = old.map (·.tick job.samples.toNat) := by
  have hpool : (renderFinish job s).state.voices = (s.voices.map (·.tick job.samples.toNat)).filter
      fun v => !reapable (vpTick job.samples.toNat (mixBlock job s)) v := by
    simp only [renderFinish, renderEnd_voices, vpReap_voices, vpTick_voices, mixBlock_voices]
  rw [hpool, List.filter_map]
  exact ⟨_, List.filter_sublist, rfl⟩

theorem coreWf_renderFinish {s : State} {job : RenderJob} (h : CoreWf s)
    (hrange : renderInRange job.channels job.samples = true) : CoreWf (renderFinish job s).state := by
  obtain ⟨old, hold, hvoices⟩ := renderFinish_voices job s
  refine ⟨mixBlock_ram_wf h.ram hrange, ?_, ?_, ?_⟩
  · rw [hvoices, List.length_map]
    exact hold.length_le.trans h.length
  · rw [hvoices, List.forall_mem_map]
    exact fun v hv => Voice.wf_tick (h.voices v (hold.subset hv)) _
  · rw [renderFinish_mode]; exact h.mode

theorem coreWf_writeControl {s : State} (h : CoreWf s) (r : ControlReg) (value : Word) :
    CoreWf (writeControl r value s) := by
  obtain ⟨hram, hlen, hvoices, hmode⟩ := h
  cases r with
  | mode => exact ⟨hram, hlen, hvoices, modeWritten_reserved value⟩
  | _ => exact ⟨hram, hlen, hvoices, hmode⟩

theorem Work.coreWf {i : Instr} {s u : State} (h : Work i s u) (hs : CoreWf s) : CoreWf u := by
  have ⟨hram, hlen, hvoices, hmode⟩ := hs
  cases h with
  | none => exact hs
  | pset => exact ⟨hram, hlen, hvoices, hmode⟩
  | control => exact coreWf_writeControl hs _ _
  | noteOn _ _ _ _ hkept hroom =>
    refine ⟨hram, ?_, ?_, hmode⟩
    · rw [List.length_append]; exact hroom hlen
    · simp only [List.forall_mem_append, List.forall_mem_singleton]
      exact ⟨fun v hv => hvoices v (hkept.subset hv), freshVoice_wf _ _⟩
  | noteOff _ _ hpool _ =>
    rw [hpool] at hlen hvoices
    simp only [List.length_append, List.length_cons] at hlen
    simp only [List.forall_mem_append, List.forall_mem_cons] at hvoices
    obtain ⟨hpre, -, hpost⟩ := hvoices
    split
    · refine ⟨hram, by simpa using hlen, ?_, hmode⟩
      simp only [List.forall_mem_append, List.forall_mem_cons]
      exact ⟨hpre, Voice.wf_release _, hpost⟩
    · refine ⟨hram, by simp only [List.length_append]; omega, ?_, hmode⟩
      exact List.forall_mem_append.mpr ⟨hpre, hpost⟩
  | render _ _ hrange => exact coreWf_renderFinish ⟨hram, hlen, hvoices, hmode⟩ hrange

theorem coreWf_respond {s : State} (h : CoreWf s) (st : Status) (data : Word) : CoreWf (respond st data s) := by
  obtain ⟨hram, hlen, hvoices, hmode⟩ := h
  constructor <;> simpa

theorem coreWf_presentCommand {s : State} (h : CoreWf s) (p : PortId) (w : Command) :
    CoreWf (presentCommand p w s) := by
  obtain ⟨hram, hlen, hvoices, hmode⟩ := h
  constructor <;> simpa

theorem performAccess_ram_wf {s : State} (h : s.ram.wf) (x : MemAccess) : (performAccess x s).ram.wf := by
  cases x with
  | read a => exact h
  | write a v => exact writeRam_wf a v h

theorem coreWf_performAccess {s : State} (h : CoreWf s) (x : MemAccess) : CoreWf (performAccess x s) := by
  obtain ⟨hram, hlen, hvoices, hmode⟩ := h
  exact ⟨performAccess_ram_wf hram x, by simpa, by simpa, by simpa⟩

theorem Moved.coreWf {s t : State} (h : Moved s t) (hs : CoreWf s) (hjobs : s.jobWf) : CoreWf t := by
  obtain ⟨hram, hlen, hvoices, hmode⟩ := hs
  have hafter : CoreWf s.afterMove := ⟨hram, hlen, hvoices, hmode⟩
  have hissuer (p : PortId) : CoreWf { s.afterMove with issuer := p } := ⟨hram, hlen, hvoices, hmode⟩
  cases h with
  | idle => exact hafter
  | presented p w => exact coreWf_presentCommand hafter p w
  | requested => exact ⟨hram, hlen, hvoices, hmode⟩
  | reset => exact ⟨coreWf_reset.ram, coreWf_reset.length, coreWf_reset.voices, coreWf_reset.mode⟩
  | ran _ _ _ hwork => exact coreWf_respond (hwork.coreWf (hissuer _)) _ _
  | finished hjob => exact coreWf_respond (coreWf_renderFinish (hissuer .h) (hjobs _ hjob).1) _ _
  | latched => exact ⟨hram, hlen, hvoices, hmode⟩
  | served => refine coreWf_performAccess ?_ _; exact ⟨hram, hlen, hvoices, hmode⟩

/-- Settles O21: each part of the invariant through everything a step can do. -/
theorem stepKeepsSoundState : Obligations.StepKeepsSoundState := by
  intro s t hs h
  obtain ⟨hcore, hports, hjobs⟩ := (state_wf_iff s).mp hs
  have hmoved := moved_of_step h
  exact (state_wf_iff t).mpr ⟨hmoved.coreWf hcore hjobs, hmoved.port_wf hports, hmoved.jobWf hjobs⟩

end Sys2Proof.Machine
end

section
/-! The voice pool from one step to the next: who stays, what changes, who is new (spec/10_state.md R26 to R28). -/

namespace Sys2Proof.Machine

/-- `pool` is voices of `s` that continue, in their order, and after them at most one fresh voice, which a note-on on
port H brings. -/
def KeepsIdentity (s : State) (pool : List Voice) : Prop :=
  ∃ old kept fresh : List Voice, old.Sublist s.voices ∧ List.Forall₂ (continuesAs s) old kept ∧ pool = kept ++ fresh ∧
    (fresh = [] ∨ ∃ i note velocity, isNoteOn i note velocity ∧ note.toNat ≤ 127 ∧ velocity.toNat ≤ 127 ∧
      portHRuns s i ∧ fresh = [freshVoice note velocity])

theorem forall₂_continuesAs_refl (s : State) (vs : List Voice) : List.Forall₂ (continuesAs s) vs vs :=
  List.forall₂_same.mpr fun v _ => continuesAs_refl s v

theorem keepsIdentity_of_continues {s : State} {old pool : List Voice} (hold : old.Sublist s.voices)
    (h : List.Forall₂ (continuesAs s) old pool) : KeepsIdentity s pool :=
  ⟨old, pool, [], hold, h, (List.append_nil pool).symm, .inl rfl⟩

theorem keepsIdentity_sublist {s : State} {pool : List Voice} (h : pool.Sublist s.voices) : KeepsIdentity s pool :=
  keepsIdentity_of_continues h (forall₂_continuesAs_refl s pool)

/-- A RENDER ages the voices that it leaves in the pool. -/
theorem keepsIdentity_renderFinish {s u : State} (hvoices : u.voices = s.voices)
    (hrender : s.render ≠ none ∨ ∃ c n, portHRuns s (.render c n)) (job : RenderJob) :
    KeepsIdentity s (renderFinish job u).state.voices := by
  obtain ⟨old, hold, hpool⟩ := renderFinish_voices job u
  rw [hpool]
  refine keepsIdentity_of_continues (hvoices ▸ hold) (List.forall₂_map_right_iff.mpr ?_)
  exact List.forall₂_same.mpr fun v _ => continuesAs_tick hrender v _

/-- A voice that a note-off marks released continues, with `rel_age` its age. -/
theorem continuesAs_release {s : State} {i : Instr} {note : Byte} {v : Voice} (hi : isNoteOff i note)
    (hrun : portHRuns s i) (hoff : s.offMode = true) (hmatch : offMatches s.offMode note v = true) :
    continuesAs s v v.release := by
  simp only [offMatches, hoff, Bool.not_true, Bool.false_or, Bool.and_eq_true, beq_iff_eq, Bool.not_eq_true'] at hmatch
  obtain ⟨hnote, hreleased⟩ := hmatch
  have hnat : note.toNat = v.note.toNat := by
    rw [← hnote, BitVec.toNat_setWidth_of_le (by decide)]
  exact ⟨rfl, rfl, .inl rfl, .inr ⟨hreleased, rfl, rfl, hoff, i, note, hi, hnat, hrun⟩⟩

/-- A command that port H runs keeps the voices' identity. -/
theorem Work.keepsIdentity {i : Instr} {s u : State} {p : PortId} (h : Work i { s.afterMove with issuer := p } u)
    (hrun : p = .h → portHRuns s i) : KeepsIdentity s u.voices := by
  cases h with
  | none => exact keepsIdentity_sublist (List.Sublist.refl _)
  | pset => exact keepsIdentity_sublist (List.Sublist.refl _)
  | @control _ _ r => cases r <;> exact keepsIdentity_sublist (List.Sublist.refl _)
  | @noteOn note velocity kept hs hi hnote hvelocity hkept _ =>
    exact ⟨kept, kept, _, hkept, forall₂_continuesAs_refl s kept, rfl,
      .inr ⟨i, note, velocity, hi, hnote, hvelocity, hrun hs, rfl⟩⟩
  | @noteOff note pre post v hs hi hpool hmatch =>
    have hvoices : s.voices = pre ++ v :: post := hpool
    split
    · next hoff =>
      refine keepsIdentity_of_continues (List.Sublist.refl _) ?_
      rw [hvoices]
      refine List.rel_append (forall₂_continuesAs_refl s pre) (.cons ?_ (forall₂_continuesAs_refl s post))
      exact continuesAs_release hi (hrun hs) hoff hmatch
    · refine keepsIdentity_sublist ?_
      rw [hvoices]
      exact (List.sublist_cons_self v post).append_left pre
  | @render c n hs hi _ =>
    refine keepsIdentity_renderFinish ?_ (.inr ⟨c, n, hi ▸ hrun hs⟩) _
    rfl

theorem Moved.keepsIdentity {s t : State} (h : Moved s t) : KeepsIdentity s t.voices := by
  cases h with
  | idle => exact keepsIdentity_sublist (List.Sublist.refl _)
  | presented p w => rw [presentCommand_voices]; exact keepsIdentity_sublist (List.Sublist.refl _)
  | requested => exact keepsIdentity_sublist (List.Sublist.refl _)
  | reset => exact keepsIdentity_sublist (List.nil_sublist _)
  | ran hturn hfree hfetch hwork =>
    rw [Reply.settle, respond_voices]
    exact hwork.keepsIdentity fun hp => by subst hp; exact ⟨hfree rfl, hturn, hfetch⟩
  | finished hjob =>
    rw [Reply.settle, respond_voices]
    refine keepsIdentity_renderFinish ?_ (.inl (by simp [hjob])) _
    rfl
  | latched => exact keepsIdentity_sublist (List.Sublist.refl _)
  | served => rw [performAccess_voices]; exact keepsIdentity_sublist (List.Sublist.refl _)

/-- Settles O28, through everything a step can do to the pool. -/
theorem voicesKeepTheirIdentity : Obligations.VoicesKeepTheirIdentity :=
  fun _ _ h => (moved_of_step h).keepsIdentity

end Sys2Proof.Machine
end

section
/-! What a block's words hold once every voice is summed (spec/44_renderer.md R153 to R155), and what may change
STATUS.SIL (spec/10_state.md R37). -/

namespace Sys2Proof.Machine

/-! ### The words of a block -/

/-- A fold in which one member of a list without duplicates has an effect on what `read` sees, and no other has. -/
theorem foldl_effect_once {α β γ : Type} {g : β → α → β} {read : β → γ} {effect : γ → γ} {x : α} {l : List α}
    (hother : ∀ m, ∀ y ∈ l, y ≠ x → read (g m y) = read m) (hself : ∀ m, read (g m x) = effect (read m))
    (hl : l.Nodup) (hx : x ∈ l) (m : β) : read (l.foldl g m) = effect (read m) := by
  obtain ⟨before, after, rfl⟩ := List.append_of_mem hx
  have hskip : ∀ part : List α, (∀ y ∈ part, y ∈ before ++ x :: after ∧ y ≠ x) → ∀ m,
      read (part.foldl g m) = read m := by
    intro part
    induction part with
    | nil => exact fun _ _ => rfl
    | cons y rest ih =>
      intro hpart m
      obtain ⟨⟨hy, hne⟩, hrest⟩ := List.forall_mem_cons.mp hpart
      rw [List.foldl_cons, ih hrest, hother m y hy hne]
  obtain ⟨hbefore, hafter⟩ : x ∉ before ∧ x ∉ after := by
    rw [List.nodup_middle, List.nodup_cons] at hl
    simpa using hl.1
  rw [List.foldl_append, List.foldl_cons, hskip after, hself, hskip before]
  · exact fun y hy => ⟨by simp [hy], fun e => hbefore (e ▸ hy)⟩
  · exact fun y hy => ⟨by simp [hy], fun e => hafter (e ▸ hy)⟩

/-- Sample `i` of a voice is added to the word of sample `i` of each channel (R118). -/
theorem word_addSample {s : State} {job : RenderJob} {c i : Nat} (hc : c < job.channels.toNat) (v : Voice)
    (m : Memory) : (addSample s job v m i).word s.epoch (sampleWord c i) =
      fadd (m.word s.epoch (sampleWord c i)) (monoSample s job.snap v i) := by
  refine foldl_effect_once (read := fun m : Memory => m.word s.epoch (sampleWord c i))
    (effect := fun w => fadd w (monoSample s job.snap v i)) (x := c) (fun m d _ hne => ?_) (fun m => ?_)
    List.nodup_range (List.mem_range.mpr hc) m
  · have hword : sampleWord c i ≠ sampleWord d i := by
      simp only [sampleWord, Config.maxBlock]; omega
    simp only [addToWord, Memory.word_put, if_neg hword]
  · simp only [addToWord, Memory.word_put, if_true]

/-- A voice adds its sample `i` to the word of sample `i` of each channel, once (R110, R118). -/
theorem word_oscVoice {s : State} {job : RenderJob} (hrange : renderInRange job.channels job.samples = true)
    {c i : Nat} (hc : c < job.channels.toNat) (hi : i < job.samples.toNat) (m : Memory) (v : Voice) :
    (oscVoice s job m v).word s.epoch (sampleWord c i) =
      fadd (m.word s.epoch (sampleWord c i)) (monoSample s job.snap v i) := by
  have hblock := ((renderInRange_iff _ _).mp hrange).1
  refine foldl_effect_once (read := fun m : Memory => m.word s.epoch (sampleWord c i))
    (effect := fun w => fadd w (monoSample s job.snap v i)) (x := i) (fun m j hj hne => ?_)
    (fun m => word_addSample hc v m) List.nodup_range (List.mem_range.mpr hi) m
  have hj := List.mem_range.mp hj
  have hfind := addSample_find_outside s job v m j (sampleWord c i) fun d _ e =>
    hne (sampleWord_inj (by simp only [Config.maxBlock]; omega) (by simp only [Config.maxBlock]; omega) e).2.symm
  simp only [Memory.word, hfind]

theorem word_zero {words : List Nat} {a : Nat} (h : a ∈ words) (m : Memory) (epoch : Nat) :
    (m.zero words).word epoch a = 0#32 := by
  simp only [Memory.word, Memory.find_zero, if_pos h]

/-- Each word of an accepted block holds the voices' samples added to +0.0 in pool order (R153, R154). -/
theorem word_sumVoices {s : State} {job : RenderJob} (hrange : renderInRange job.channels job.samples = true)
    {c i : Nat} (hc : c < job.channels.toNat) (hi : i < job.samples.toNat) :
    (sumVoices s job).word s.epoch (sampleWord c i) =
      s.voices.foldl (fun acc v => fadd acc (monoSample s job.snap v i)) fZero := by
  have hmem : sampleWord c i ∈ region job := (mem_region job _).mpr ⟨c, i, hc, hi, rfl⟩
  rw [sumVoices, ← List.foldl_hom (fun m : Memory => m.word s.epoch (sampleWord c i))
    (g₂ := fun acc v => fadd acc (monoSample s job.snap v i))
    (H := fun m v => (word_oscVoice hrange hc hi m v).symm), word_zero hmem]
  rfl

/-- Latching does not change what the voices sum to. -/
@[simp] theorem sumVoices_renderBegin (c : Byte) (n : BitVec 16) (s : State) (job : RenderJob) :
    sumVoices (renderBegin c n s) job = sumVoices s job := rfl

/-- A block that faults has a channel, and some sample of it is not finite (R155). -/
theorem mixFaults_of_blockFaults {s : State} {c : Byte} {n : BitVec 16} (hrange : renderInRange c n = true)
    (h : blockFaults s.epoch ⟨s.params, c, n⟩ (sumVoices s ⟨s.params, c, n⟩) = true) :
    c ≠ 0#8 ∧ mixFaults s n.toNat = true := by
  obtain ⟨a, ha, hfault⟩ := List.any_eq_true.mp h
  obtain ⟨ch, i, hch, hi, rfl⟩ := (mem_region _ a).mp ha
  rw [word_sumVoices hrange hch hi] at hfault
  refine ⟨?_, List.any_eq_true.mpr ⟨i, List.mem_range.mpr hi, hfault⟩⟩
  rintro rfl
  exact Nat.not_lt_zero _ hch

/-! ### STATUS.SIL -/

@[simp] theorem renderFinish_sil (job : RenderJob) (s : State) :
    (renderFinish job s).state.sil = (blockFaults s.epoch job (sumVoices s job) || s.sil) := by
  change (mixBlock job s).sil = _
  unfold mixBlock
  dsimp only
  split
  · next hfault => rw [hfault, silence_sil, Bool.true_or]
  · next hfine => rw [Bool.eq_false_of_not_eq_true hfine, Bool.false_or]

theorem controlReg?_eq_status {reg : Byte} (h : controlReg? reg = some .status) : reg = 0x06#8 := by
  unfold controlReg? at h
  by_contra hne
  rw [if_neg hne] at h
  split_ifs at h <;> cases h

/-- A command's work leaves SIL alone, or a RENDER of a faulting block sets it, or a CWR to STATUS writes it. -/
theorem Work.sil_cases {i : Instr} {s u : State} (h : Work i s u) :
    u.sil = s.sil ∨
    (u.sil = true ∧ s.issuer = .h ∧ ∃ c n, i = .render c n ∧ c ≠ 0#8 ∧ mixFaults s n.toNat = true) ∨
    ∃ value, u.sil = silWritten value s.sil ∧ s.issuer = .h ∧ i = .cwr 0x06#8 value := by
  cases h with
  | none => exact .inl rfl
  | pset => exact .inl rfl
  | @control _ value r hs hi hr =>
    cases r with
    | status => exact .inr (.inr ⟨value, rfl, hs, controlReg?_eq_status hr ▸ hi⟩)
    | _ => exact .inl rfl
  | noteOn => exact .inl rfl
  | noteOff => exact .inl rfl
  | @render c n hs hi hrange =>
    rw [renderFinish_sil, renderBegin_epoch, sumVoices_renderBegin, renderBegin_sil]
    cases hfault : blockFaults s.epoch ⟨s.params, c, n⟩ (sumVoices s ⟨s.params, c, n⟩) with
    | false => exact .inl (Bool.false_or _)
    | true => exact .inr (.inl ⟨Bool.true_or _, hs, c, n, hi, mixFaults_of_blockFaults hrange hfault⟩)

/-- Settles O35: which commands change SIL, and how. -/
theorem silChangesOnlyAsRuled : Obligations.SilChangesOnlyAsRuled := by
  intro i s t h
  obtain ⟨r, rfl, hwork⟩ := work_of_exec h
  rw [Reply.settle, respond_sil]
  rcases hwork.sil_cases with hsame | ⟨hset, hs, c, n, hi, hfaults⟩ | ⟨value, hwritten, hs, hi⟩
  · rw [hsame]
    exact ⟨fun hoff hon => absurd hon (by simp [hoff]), fun hon hoff => absurd hoff (by simp [hon])⟩
  · exact ⟨fun _ _ => ⟨hs, c, n, hi, hfaults⟩, fun _ hoff => absurd hoff (by simp [hset])⟩
  · rw [hwritten]
    refine ⟨fun hoff hon => ?_, fun hon hoff => ⟨hs, value, hi, ?_⟩⟩
    · simp [silWritten, hoff] at hon
    · simpa [silWritten, hon] using hoff

end Sys2Proof.Machine
end

section
/-! A 64-bit word as its two halves, and a 32-bit word as its four bridge bytes (spec/20_memory.md R56, R57). -/

namespace Sys2Proof

theorem responseHalves_append (first second : Word) : responseHalves (first ++ second) = [first, second] := by
  rw [responseHalves, BitVec.extractLsb'_append_eq_left, BitVec.extractLsb'_append_eq_right]

theorem wordOfBridgeBytes_bridgeByte (v : Word) :
    wordOfBridgeBytes (bridgeByte v 0) (bridgeByte v 1) (bridgeByte v 2) (bridgeByte v 3) = v := by
  rw [wordOfBridgeBytes, bridgeByte, bridgeByte, bridgeByte, bridgeByte,
    BitVec.extractLsb'_append_extractLsb'_eq_extractLsb' (show 8 * 3 = 8 * 2 + 8 from rfl),
    BitVec.extractLsb'_append_extractLsb'_eq_extractLsb' (show 8 * 2 = 8 * 1 + 8 from rfl),
    BitVec.extractLsb'_append_extractLsb'_eq_extractLsb' (show 8 * 1 = 8 * 0 + 8 from rfl)]
  exact BitVec.extractLsb'_eq_self

theorem getLsbD_bridgeByte (v : Word) (j : Nat) {k : Nat} (hk : k < 8) :
    (bridgeByte v j).getLsbD k = v.getLsbD (8 * j + k) := by
  rw [bridgeByte, BitVec.getLsbD_extractLsb', decide_eq_true hk, Bool.true_and]

/-- Settles O6: an append is taken apart into what was appended, and put together again. -/
theorem halvesAndBridgeBytesReassemble : Obligations.HalvesAndBridgeBytesReassemble :=
  ⟨fun _ _ => ⟨BitVec.extractLsb'_append_eq_left, BitVec.extractLsb'_append_eq_right⟩,
    fun st data => responseHalves_append (st.code ++ 0#24) data,
    fun _ => ⟨_, _, rfl, BitVec.extractLsb'_append_extractLsb' (w := 32) (len := 32)⟩,
    fun v => ⟨wordOfBridgeBytes_bridgeByte v, fun j _ _ hk => getLsbD_bridgeByte v j hk⟩⟩

end Sys2Proof
end

section
/-! Which move the next step makes, and the command that a port's move runs (spec/20_memory.md R63, R64). -/

namespace Sys2Proof.Machine

theorem step_of_agenda_cons {s : State} {m : Move} {rest : List Move} (h : s.agenda = m :: rest) :
    step s = takeMove m { s with agenda := rest } := by
  simp only [step, nextMove, h]

theorem step_of_agenda_nil {s : State} (h : s.agenda = []) : step s = arbitrate s := by
  simp only [step, nextMove, h]

theorem runCommand_of_fetch {p : PortId} {s : State} {w : Command} (h : fetch p s = some w) :
    runCommand p s = exec (decode w) { s with issuer := p } := by
  simp only [runCommand, h]

/-- A port's move runs the command at its head, unless port H has a RENDER to finish first (R63). -/
theorem runPort_of_fetch {p : PortId} {s : State} {w : Command} (hfree : p = .h → s.render = none)
    (h : fetch p s = some w) : runPort p s = exec (decode w) { s with issuer := p } := by
  cases p with
  | a => exact runCommand_of_fetch h
  | h => simp only [runPort, hfree rfl, runCommand_of_fetch h]

theorem runPort_of_render {s : State} {job : RenderJob} (h : s.render = some job) :
    runPort .h s = .next (renderFinish job { s with issuer := .h }).settle := by
  simp only [runPort, h, complete]

@[simp] theorem fetch_withAgenda (p : PortId) (s : State) (moves : List Move) :
    fetch p { s with agenda := moves } = fetch p s := by
  cases p <;> rfl

/-- On the agenda's word a port runs the command at its head. -/
theorem step_of_run {s : State} {p : PortId} {w : Command} {rest : List Move} (hagenda : s.agenda = .run p :: rest)
    (hfree : p = .h → s.render = none) (hfetch : fetch p s = some w) :
    step s = exec (decode w) { s with agenda := rest, issuer := p } := by
  rw [step_of_agenda_cons hagenda]
  exact runPort_of_fetch hfree ((fetch_withAgenda p s rest).trans hfetch)

/-- The arbitration prefers port H. -/
theorem arbitrate_of_fetch_h {s : State} {w : Command} (h : fetch .h s = some w) : arbitrate s = runPort .h s := by
  simp only [arbitrate, h, Option.isSome_some, Bool.true_or, if_true]

theorem arbitrate_of_fetch_a {s : State} {w : Command} (hfree : s.render = none) (hidle : fetch .h s = none)
    (h : fetch .a s = some w) : arbitrate s = runPort .a s := by
  simp only [arbitrate, State.busy, hfree, hidle, h, Option.isSome_none, Option.isSome_some, Bool.or_self,
    Bool.false_eq_true, if_false, if_true]

theorem withFetchWord_toNat (s : State) (w : Command) : s.withFetchWord 64 w.toNat = placeCommand w s := by
  rw [State.withFetchWord, Nat.mod_eq_of_lt w.isLt, BitVec.ofNat_toNat, BitVec.setWidth_eq]

/-- Settles O7: the agenda's move, the arbitration's choice, and a placed word as a case of the first. -/
theorem stepRunsDecodedCommand : Obligations.StepRunsDecodedCommand := by
  refine ⟨fun _ _ _ _ => step_of_run, fun s w hagenda hfree hfetch => ?_,
    fun s w hagenda hfree hidle hfetch => ?_, fun s w => ?_⟩
  · rw [step_of_agenda_nil hagenda, arbitrate_of_fetch_h hfetch, runPort_of_fetch (fun _ => hfree) hfetch]
  · rw [step_of_agenda_nil hagenda, arbitrate_of_fetch_a hfree hidle hfetch,
      runPort_of_fetch (p := .a) (fun e => nomatch e) hfetch]
  · rw [withFetchWord_toNat]
    exact step_of_run (s := placeCommand w s) rfl (fun _ => rfl) rfl

end Sys2Proof.Machine
end

section
/-! An access of the host memory port: held while BUSY = 1, else one word and nothing more (spec/20_memory.md R53 to
R55). -/

namespace Sys2Proof.Machine

theorem serveMemory_of_busy {s : State} (h : s.busy = true) : serveMemory s = s := by
  rw [serveMemory, if_pos h]

section Served
variable {s : State} {q : List MemAccess} {a : Nat} (hfree : s.busy = false)
include hfree

theorem serveMemory_read (h : s.memPort.pending = .read a :: q) :
    serveMemory s = { s with memPort := ⟨q, s.memPort.answers ++ [.data (readRam a s)]⟩ } := by
  simp only [serveMemory, hfree, h, Bool.false_eq_true, if_false]
  rfl

theorem serveMemory_write {v : Word} (h : s.memPort.pending = .write a v :: q) :
    serveMemory s = { writeRam a v s with memPort := ⟨q, s.memPort.answers ++ [.done]⟩ } := by
  simp only [serveMemory, hfree, h, Bool.false_eq_true, if_false, performAccess, writeRam]
  split <;> rfl

end Served

theorem readRam_of_le {a : Nat} (h : 8192 ≤ a) (s : State) : readRam a s = 0x00000000#32 :=
  if_neg (Nat.not_lt.mpr h)

/-- What the host memory port cannot change: all but SAMPLE_RAM, its own queues and the agenda. -/
def SameButMemory (s t : State) : Prop :=
  sameParams s t ∧ samePool s t ∧ sameControls s t ∧ sameSil s t ∧ sameRender s t ∧ t.portH = s.portH ∧
    t.portA = s.portA

theorem sameButMemory_writeRam (a : Nat) (v : Word) (s : State) : SameButMemory s (writeRam a v s) := by
  unfold writeRam
  split <;> exact ⟨rfl, rfl, ⟨rfl, rfl, rfl, rfl, rfl, rfl⟩, rfl, rfl, rfl, rfl⟩

/-- A served access answers, moves its one word inside SAMPLE_RAM and none past the end, and changes nothing else (R53,
R55). -/
theorem step_serve {s : State} {rest : List Move} {x : MemAccess} {q : List MemAccess}
    (hagenda : s.agenda = .serve :: rest) (hfree : s.busy = false) (h : s.memPort.pending = x :: q) :
    ∃ t, step s = .next t ∧ t.memPort.pending = q ∧ t.agenda = rest ∧ SameButMemory s t ∧
      (∀ a, x = .read a → t.memPort.answers = s.memPort.answers ++ [.data (readRam a s)] ∧ sameRam s t) ∧
      ∀ a v, x = .write a v → t.memPort.answers = s.memPort.answers ++ [.done] ∧
        ∀ b, readRam b t = if b = a ∧ a < 8192 then v else readRam b s := by
  rw [step_of_agenda_cons hagenda, takeMove]
  cases x with
  | read a =>
    rw [serveMemory_read (s := { s with agenda := rest }) hfree h]
    refine ⟨_, rfl, rfl, rfl, ⟨rfl, rfl, ⟨rfl, rfl, rfl, rfl, rfl, rfl⟩, rfl, rfl, rfl, rfl⟩, ?_, nofun⟩
    rintro _ ⟨⟩
    exact ⟨rfl, fun _ => rfl⟩
  | write a v =>
    rw [serveMemory_write (s := { s with agenda := rest }) hfree h]
    refine ⟨_, rfl, rfl, writeRam_agenda a v _, sameButMemory_writeRam a v { s with agenda := rest }, nofun, ?_⟩
    rintro _ _ ⟨⟩
    exact ⟨rfl, fun b => readRam_writeRam a b v { s with agenda := rest }⟩

/-- Settles O15: past the end a word reads 0, and a write reaches no word. -/
theorem hostAccessPastEndDoesNothing : Obligations.HostAccessPastEndDoesNothing := by
  intro s rest q a v hagenda hfree ha
  refine ⟨fun h => ?_, fun h => ?_⟩
  · obtain ⟨t, hstep, hqueue, -, hsame, hread, -⟩ := step_serve hagenda hfree h
    obtain ⟨hanswer, hram⟩ := hread a rfl
    rw [readRam_of_le ha] at hanswer
    exact ⟨t, hstep, hqueue, hanswer, hram, hsame⟩
  · obtain ⟨t, hstep, hqueue, -, hsame, -, hwrite⟩ := step_serve hagenda hfree h
    obtain ⟨hanswer, hram⟩ := hwrite a v rfl
    exact ⟨t, hstep, hqueue, hanswer, fun b => (hram b).trans (if_neg fun hb => Nat.not_lt.mpr ha hb.2), hsame⟩

/-- Settles O16: below 8192 the word accessed is the word named. -/
theorem hostAccessMovesOneWord : Obligations.HostAccessMovesOneWord := by
  intro s rest q a v hagenda hfree ha
  refine ⟨fun h => ?_, fun h => ?_⟩
  · obtain ⟨t, hstep, hqueue, -, hsame, hread, -⟩ := step_serve hagenda hfree h
    obtain ⟨hanswer, hram⟩ := hread a rfl
    exact ⟨t, hstep, hqueue, hanswer, hram, hsame⟩
  · obtain ⟨t, hstep, hqueue, -, hsame, -, hwrite⟩ := step_serve hagenda hfree h
    obtain ⟨hanswer, hram⟩ := hwrite a v rfl
    simp only [ha, and_true] at hram
    exact ⟨t, hstep, hqueue, hanswer, hram, hsame⟩

/-! ### Several steps -/

theorem run_succ_of_step {s t : State} (h : step s = .next t) (k : Nat) :
    Host.Core.run core (k + 1) s = Host.Core.run core k t := by
  simp only [Host.Core.run, show core.step s = .next t from h]

/-- While BUSY = 1 a served access is held: only the agenda moves on (R54). -/
theorem step_serve_of_busy {s : State} {rest : List Move} (hagenda : s.agenda = .serve :: rest)
    (hbusy : s.busy = true) : step s = .next { s with agenda := rest } := by
  rw [step_of_agenda_cons hagenda, takeMove, serveMemory_of_busy (s := { s with agenda := rest }) hbusy]

/-- Port H's move ends the RENDER in progress with its response (R54, R63). -/
theorem step_run_of_render {s : State} {job : RenderJob} {rest : List Move} (hagenda : s.agenda = .run .h :: rest)
    (h : s.render = some job) :
    step s = .next (renderFinish job { s with agenda := rest, issuer := .h }).settle := by
  rw [step_of_agenda_cons hagenda, takeMove, runPort_of_render (s := { s with agenda := rest }) h]

theorem busy_settle_renderFinish (job : RenderJob) (s : State) : (renderFinish job s).settle.busy = false := by
  rw [State.busy, Reply.settle, respond_render, renderFinish_render, Option.isSome_none]

/-- The move that ends a RENDER leaves the host memory port alone and clears BUSY. -/
theorem step_ends_render {s : State} {job : RenderJob} {rest : List Move} (hagenda : s.agenda = .run .h :: rest)
    (h : s.render = some job) : ∃ t, step s = .next t ∧ t.memPort = s.memPort ∧ t.agenda = rest ∧ t.busy = false ∧
      t.portH.responses.length = s.portH.responses.length + 1 := by
  have hkeeps := renderFinish_keeps job { s with agenda := rest, issuer := .h }
  refine ⟨_, step_run_of_render hagenda h, ?_, ?_, busy_settle_renderFinish _ _, ?_⟩
  · rw [Reply.settle, respond_memPort, hkeeps.memPort]
  · rw [Reply.settle, respond_agenda, hkeeps.agenda]
  · rw [Reply.settle, respond, hkeeps.issuer, State.setPort, State.port, hkeeps.portH]
    exact List.length_append

/-- Settles O17: held, then the RENDER's end, then the access as on an idle block. -/
theorem hostAccessHeldWhileBusy : Obligations.HostAccessHeldWhileBusy := by
  intro s job x q hjob hpending
  have hbusy : s.busy = true := by rw [State.busy, hjob, Option.isSome_some]
  refine ⟨fun rest hagenda => step_serve_of_busy hagenda hbusy, fun rest hagenda => ?_⟩
  have hheld := step_serve_of_busy hagenda hbusy
  obtain ⟨t, hended, hport, hnext, hfree, hresponse⟩ :=
    step_ends_render (s := { s with agenda := .run .h :: .serve :: rest }) rfl hjob
  have hrun : ∀ k, Host.Core.run core (k + 2) s = Host.Core.run core k t := fun k =>
    (run_succ_of_step hheld (k + 1)).trans (run_succ_of_step hended k)
  obtain ⟨u, hserved, hqueue, hrest, -, hread, hwrite⟩ :=
    step_serve hnext hfree ((congrArg MemoryPort.pending hport).trans hpending)
  rw [hport] at hread hwrite
  exact ⟨t, u, hrun 0, (hrun 1).trans (run_succ_of_step hserved 0), hfree, hport, hresponse, hqueue, hrest, hread,
    hwrite⟩

end Sys2Proof.Machine
end

section
/-! A RENDER between its latch and its end works on a part of the state that only port H's moves change
(spec/20_memory.md R54, R62, R64; spec/44_renderer.md R152). -/

namespace Sys2Proof.Machine

/-- What a latched RENDER works on, with port H's side and what is to come: the parameter store, port A, the host memory
port and the issuer are blanked out. -/
def State.block (s : State) : State :=
  { s with params := State.reset.params, portA := .idle, memPort := ⟨[], []⟩, issuer := .h }

theorem block_fields {s t : State} (h : t.block = s.block) : t.ram = s.ram ∧ t.voices = s.voices ∧ t.sil = s.sil ∧
    sameControls s t ∧ t.portH = s.portH :=
  ⟨(congrArg State.ram h :), (congrArg State.voices h :), (congrArg State.sil h :),
    ⟨(congrArg State.mode h :), (congrArg State.envA h :), (congrArg State.envD h :), (congrArg State.envS h :),
      (congrArg State.envR h :), (congrArg State.sampleRate h :)⟩, (congrArg State.portH h :)⟩

theorem busy_of_block {s t : State} (h : t.block = s.block) : t.busy = s.busy := (congrArg State.busy h :)

/-! ### What the other agents leave alone -/

theorem block_respond_a {s : State} (hs : s.issuer = .a) (st : Status) (data : Word) :
    (respond st data s).block = s.block := by
  rw [respond, hs]
  rfl

/-- Port A's commands reach the parameter store alone (R77). -/
theorem Work.block_eq {i : Instr} {s u : State} (h : Work i s u) (hs : s.issuer = .a) : u.block = s.block := by
  have hadmit : s.issuer ≠ .h := by rw [hs]; exact nofun
  cases h with
  | none => rfl
  | pset => rfl
  | control hh => exact absurd hh hadmit
  | noteOn hh => exact absurd hh hadmit
  | noteOff hh => exact absurd hh hadmit
  | render hh => exact absurd hh hadmit

theorem runCommand_a_block (s : State) : ∃ t, runCommand .a s = .next t ∧ t.block = s.block := by
  cases hfetch : fetch .a s with
  | none => exact ⟨s, by rw [runCommand, hfetch], rfl⟩
  | some w =>
    obtain ⟨r, hr, hwork⟩ := exec_eq_complete_work (decode w) { s with issuer := .a }
    have hissuer : r.state.issuer = .a := hwork.keepsOutside.issuer
    exact ⟨r.settle, (runCommand_of_fetch hfetch).trans hr,
      (block_respond_a hissuer r.status r.data).trans (hwork.block_eq rfl)⟩

/-- While a RENDER is in progress, no move away from port H touches what it works on. -/
theorem takeMove_block {m : Move} (hm : awayFromPortH m) {s : State} (hbusy : s.busy = true) :
    ∃ t, takeMove m s = .next t ∧ t.block = s.block := by
  rcases hm with rfl | ⟨w, rfl⟩ | ⟨x, rfl⟩ | rfl
  · exact runCommand_a_block s
  · exact ⟨_, rfl, rfl⟩
  · exact ⟨_, rfl, rfl⟩
  · exact ⟨s, by rw [takeMove, serveMemory_of_busy hbusy], rfl⟩

/-- No sequence of such moves touches it either. -/
theorem run_block {ms rest : List Move} (hms : ∀ m ∈ ms, awayFromPortH m) {s : State} (hbusy : s.busy = true)
    (hagenda : s.agenda = ms ++ rest) : ∃ t, t.block = { s with agenda := rest }.block ∧
      ∀ k, Host.Core.run core (ms.length + k) s = Host.Core.run core k t := by
  induction ms generalizing s with
  | nil => exact ⟨s, by rw [← show s.agenda = rest from hagenda], fun k => by rw [List.length_nil, Nat.zero_add]⟩
  | cons m ms ih =>
    obtain ⟨hm, hms⟩ := List.forall_mem_cons.mp hms
    obtain ⟨u, hstep, hu⟩ := takeMove_block hm (s := { s with agenda := ms ++ rest }) hbusy
    rw [← step_of_agenda_cons (show s.agenda = m :: (ms ++ rest) from hagenda)] at hstep
    obtain ⟨t, ht, hrun⟩ := ih hms ((busy_of_block hu).trans hbusy) (congrArg State.agenda hu)
    refine ⟨t, ht.trans (congrArg (fun b : State => { b with agenda := rest }) hu), fun k => ?_⟩
    rw [List.length_cons, Nat.add_right_comm, run_succ_of_step hstep, hrun]

/-! ### The rest of the RENDER depends on nothing else -/

theorem mixBlock_block (job : RenderJob) (s : State) : (mixBlock job s).block = mixBlock job s.block := by
  unfold mixBlock
  exact apply_ite State.block _ _ _

theorem block_respond_h {s : State} (hs : s.issuer = .h) (st : Status) (data : Word) :
    (respond st data s).block = respond st data s.block := by
  rw [respond, hs]
  rfl

/-- What a RENDER's end makes of the block is a function of the block. -/
theorem renderFinish_block (job : RenderJob) {s : State} (hs : s.issuer = .h) :
    (renderFinish job s).settle.block = (renderFinish job s.block).settle := by
  have hstate : (renderFinish job s).state.block = (renderFinish job s.block).state := by
    simp only [renderFinish, ← mixBlock_block]
    rfl
  rw [Reply.settle, block_respond_h ((renderFinish_keeps job s).issuer.trans hs), hstate]
  rfl

theorem step_run_block {s : State} {job : RenderJob} {rest : List Move} (hagenda : s.agenda = .run .h :: rest)
    (h : s.render = some job) : ∃ t, step s = .next t ∧
      t.block = (renderFinish job { s.block with agenda := rest }).settle :=
  ⟨_, step_run_of_render hagenda h, renderFinish_block job (s := { s with agenda := rest, issuer := .h }) rfl⟩

theorem latchRender_of_fetch {s : State} {w : Command} {c : Byte} {n : BitVec 16} (hfree : s.render = none)
    (hfetch : fetch .h s = some w) (hdecode : decode w = .render c n) (hrange : renderInRange c n = true) :
    latchRender s = renderBegin c n s := by
  simp only [latchRender, hfree, hfetch, Option.map_some, hdecode, hrange, if_true]

theorem exec_render_of_range {s : State} {c : Byte} {n : BitVec 16} (hs : s.issuer = .h)
    (hrange : renderInRange c n = true) :
    exec (.render c n) s = .next (renderFinish ⟨s.params, c, n⟩ (renderBegin c n s)).settle := by
  simp only [exec, execRender, portHOnly_h _ hs, renderBlock, hrange, if_true, complete]

/-- Settles O40: the latch fixes what the RENDER works on, the moves between leave it alone, and the RENDER's end is a
function of it. -/
theorem latchedRenderIsIsolated : Obligations.LatchedRenderIsIsolated := by
  intro s w c n ms hfree hfetch hdecode hn hc hms hagenda
  have hrange : renderInRange c n = true := (renderInRange_iff c n).mpr ⟨hn, hc⟩
  have hlatch : step s = .next (renderBegin c n { s with agenda := ms ++ [.run .h] }) := by
    rw [step_of_agenda_cons hagenda, takeMove, latchRender_of_fetch (s := { s with agenda := ms ++ [.run .h] }) hfree
      hfetch hdecode hrange]
  obtain ⟨u, hu, hrun⟩ := run_block hms (s := renderBegin c n { s with agenda := ms ++ [.run .h] }) rfl rfl
  obtain ⟨t, hend, ht⟩ := step_run_block (s := u) (congrArg State.agenda hu) (congrArg State.render hu)
  have hwhole := step_of_run (s := { s with agenda := [.run .h] }) rfl (fun _ => hfree) hfetch
  rw [hdecode, exec_render_of_range rfl hrange] at hwhole
  have hblock := renderFinish_block ⟨s.params, c, n⟩ (s := renderBegin c n { s with agenda := [], issuer := .h }) rfl
  replace hblock := (hu ▸ ht).trans hblock.symm
  obtain ⟨hram, hvoices, hsil, hcontrols, hportH⟩ := block_fields hblock
  have hdone := busy_settle_renderFinish ⟨s.params, c, n⟩ (renderBegin c n { s with agenda := [], issuer := .h })
  exact ⟨t, _, (run_succ_of_step hlatch (ms.length + 1)).trans ((hrun 1).trans (run_succ_of_step hend 0)), hwhole,
    hram, hvoices, hsil, hcontrols, hportH, (busy_of_block hblock).trans hdone, hdone⟩

end Sys2Proof.Machine
end

section
/-! The fields of a word, and the decoder as a relation with one case per row of the opcode table
(spec/30_encoding.md R70 to R79). -/

namespace Sys2Proof

/-! ### Fields -/

/-- A word is the one assembled from its own fields (R70). -/
theorem assemble_fields (w : Command) :
    assemble (opField w) (f1Field w) (f2Field w) (f3Field w) (payloadField w) = w := by
  rw [assemble, opField, f1Field, f2Field, f3Field, payloadField,
    BitVec.extractLsb'_append_extractLsb'_eq_extractLsb' (show 56 = 48 + 8 from rfl),
    BitVec.extractLsb'_append_extractLsb'_eq_extractLsb' (show 48 = 40 + 8 from rfl),
    BitVec.extractLsb'_append_extractLsb'_eq_extractLsb' (show 40 = 32 + 8 from rfl),
    BitVec.extractLsb'_append_extractLsb'_eq_extractLsb' (show 32 = 0 + 32 from rfl)]
  exact BitVec.extractLsb'_eq_self

theorem eq_iff_fields {w v : Command} : w = v ↔ opField w = opField v ∧ f1Field w = f1Field v ∧
    f2Field w = f2Field v ∧ f3Field w = f3Field v ∧ payloadField w = payloadField v := by
  refine ⟨fun h => by simp [h], fun ⟨hop, h1, h2, h3, hp⟩ => ?_⟩
  rw [← assemble_fields w, hop, h1, h2, h3, hp, assemble_fields]

@[simp] theorem opField_and (w m : Command) : opField (w &&& m) = opField w &&& opField m := BitVec.extractLsb'_and
@[simp] theorem f1Field_and (w m : Command) : f1Field (w &&& m) = f1Field w &&& f1Field m := BitVec.extractLsb'_and
@[simp] theorem f2Field_and (w m : Command) : f2Field (w &&& m) = f2Field w &&& f2Field m := BitVec.extractLsb'_and
@[simp] theorem f3Field_and (w m : Command) : f3Field (w &&& m) = f3Field w &&& f3Field m := BitVec.extractLsb'_and
@[simp] theorem payloadField_and (w m : Command) : payloadField (w &&& m) = payloadField w &&& payloadField m :=
  BitVec.extractLsb'_and

@[simp] theorem opField_ofNat (n : Nat) : opField (BitVec.ofNat 64 n) = BitVec.ofNat 8 ((n % 2 ^ 64) >>> 56) := rfl
@[simp] theorem f1Field_ofNat (n : Nat) : f1Field (BitVec.ofNat 64 n) = BitVec.ofNat 8 ((n % 2 ^ 64) >>> 48) := rfl
@[simp] theorem f2Field_ofNat (n : Nat) : f2Field (BitVec.ofNat 64 n) = BitVec.ofNat 8 ((n % 2 ^ 64) >>> 40) := rfl
@[simp] theorem f3Field_ofNat (n : Nat) : f3Field (BitVec.ofNat 64 n) = BitVec.ofNat 8 ((n % 2 ^ 64) >>> 32) := rfl
@[simp] theorem payloadField_ofNat (n : Nat) : payloadField (BitVec.ofNat 64 n) = BitVec.ofNat 32 (n % 2 ^ 64) := rfl

@[simp] theorem byte_and_ones (b : Byte) : b &&& 0xFF#8 = b := BitVec.and_allOnes
@[simp] theorem word_and_ones (v : Word) : v &&& 0xFFFFFFFF#32 = v := BitVec.and_allOnes

/-- RENDER's sample count from its two bytes (R150). -/
theorem samples_toNat (high low : Byte) : (high ++ low).toNat = 256 * high.toNat + low.toNat := by
  have hlow := low.isLt
  rw [BitVec.toNat_append, ← Nat.shiftLeft_add_eq_or_of_lt hlow, Nat.shiftLeft_eq]
  omega

/-- A word hits a row's pattern when each of its fields does (R79). -/
theorem hits_eq_fields (w mask pattern : Command) : hits w mask pattern = decide
    (opField w &&& opField mask = opField pattern ∧ f1Field w &&& f1Field mask = f1Field pattern ∧
      f2Field w &&& f2Field mask = f2Field pattern ∧ f3Field w &&& f3Field mask = f3Field pattern ∧
      payloadField w &&& payloadField mask = payloadField pattern) := by
  rw [hits, beq_eq_decide, decide_eq_decide, eq_iff_fields]
  simp only [opField_and, f1Field_and, f2Field_and, f3Field_and, payloadField_and]

/-! ### The decoder, row by row -/

/-- The commands that a word's fields select, one case per row of the opcode table (R71, R73, R74, R75). -/
inductive Decodes (w : Command) : Instr → Prop where
  | nop (hop : opField w = 0x00#8) : Decodes w .nop
  | eventNoteOff (hop : opField w = 0x01#8) (hstatus : f1Field w = 0x80#8) :
      Decodes w (.eventNoteOff (f2Field w) (f3Field w))
  | eventNoteOnV0 (hop : opField w = 0x01#8) (hstatus : f1Field w = 0x90#8) (hdata2 : f3Field w = 0x00#8) :
      Decodes w (.eventNoteOnV0 (f2Field w))
  | eventNoteOn (hop : opField w = 0x01#8) (hstatus : f1Field w = 0x90#8) (hdata2 : f3Field w ≠ 0x00#8) :
      Decodes w (.eventNoteOn (f2Field w) (f3Field w))
  | eventIgnored (hop : opField w = 0x01#8) (hoff : f1Field w ≠ 0x80#8) (hon : f1Field w ≠ 0x90#8) :
      Decodes w (.eventIgnored (f1Field w) (f2Field w) (f3Field w))
  | noteOn (hop : opField w = 0x02#8) : Decodes w (.noteOn (f2Field w) (f3Field w))
  | noteOff (hop : opField w = 0x03#8) : Decodes w (.noteOff (f2Field w))
  | pset (hop : opField w = 0x04#8) : Decodes w (.pset (f3Field w) (payloadField w))
  | pget (hop : opField w = 0x05#8) : Decodes w (.pget (f3Field w))
  | render (hop : opField w = 0x06#8) : Decodes w (.render (f1Field w) (f2Field w ++ f3Field w))
  | cwr (hop : opField w = 0x07#8) : Decodes w (.cwr (f3Field w) (payloadField w))
  | crd (hop : opField w = 0x08#8) : Decodes w (.crd (f3Field w))
  | vrd (hop : opField w = 0x09#8) : Decodes w (.vrd (f3Field w) (f2Field w))
  | illegal (hop : 0x0A ≤ (opField w).toNat) : Decodes w (.illegal (opField w))

/-- A reserved opcode is none of the ten that have a row of their own (R75). -/
theorem ne_of_reserved {op : Byte} (hop : 0x0A ≤ op.toNat) (k : Byte) (hk : k.toNat < 0x0A) : op ≠ k := by
  rintro rfl
  omega

theorem Decodes.decode_eq {w : Command} {i : Instr} (h : Decodes w i) : decode w = i := by
  cases h with
  | illegal hop => simp [decode, ne_of_reserved hop]
  | _ => simp [decode, decodeEvent, *]

/-- Every word's fields select a row (R79). -/
theorem exists_decodes (w : Command) : ∃ i, Decodes w i := by
  by_cases h0 : opField w = 0x00#8
  · exact ⟨_, .nop h0⟩
  by_cases h1 : opField w = 0x01#8
  · by_cases hoff : f1Field w = 0x80#8
    · exact ⟨_, .eventNoteOff h1 hoff⟩
    by_cases hon : f1Field w = 0x90#8
    · by_cases hdata2 : f3Field w = 0x00#8
      · exact ⟨_, .eventNoteOnV0 h1 hon hdata2⟩
      · exact ⟨_, .eventNoteOn h1 hon hdata2⟩
    · exact ⟨_, .eventIgnored h1 hoff hon⟩
  by_cases h2 : opField w = 0x02#8
  · exact ⟨_, .noteOn h2⟩
  by_cases h3 : opField w = 0x03#8
  · exact ⟨_, .noteOff h3⟩
  by_cases h4 : opField w = 0x04#8
  · exact ⟨_, .pset h4⟩
  by_cases h5 : opField w = 0x05#8
  · exact ⟨_, .pget h5⟩
  by_cases h6 : opField w = 0x06#8
  · exact ⟨_, .render h6⟩
  by_cases h7 : opField w = 0x07#8
  · exact ⟨_, .cwr h7⟩
  by_cases h8 : opField w = 0x08#8
  · exact ⟨_, .crd h8⟩
  by_cases h9 : opField w = 0x09#8
  · exact ⟨_, .vrd h9⟩
  exact ⟨_, .illegal (by bv_omega)⟩

/-- The decoder is total, and takes the row that the word's fields select (R79). -/
theorem decodes_decode (w : Command) : Decodes w (decode w) := by
  obtain ⟨i, h⟩ := exists_decodes w
  rwa [h.decode_eq]

theorem Decodes.wellFormed {w : Command} {i : Instr} (h : Decodes w i) : i.wellFormed = true := by
  cases h with
  | eventNoteOn _ _ hdata2 => exact bne_iff_ne.mpr hdata2
  | eventIgnored _ hoff hon => exact Bool.and_eq_true_iff.mpr ⟨bne_iff_ne.mpr hoff, bne_iff_ne.mpr hon⟩
  | illegal hop => exact decide_eq_true hop
  | _ => rfl

theorem Instr.row_lt (i : Instr) : i.row < opcodeRows.length := by
  cases i <;> simp [Instr.row, opcodeRows]

/-- The row that a word's fields select is the first one it hits (R79). -/
theorem Decodes.firstRow_eq {w : Command} {i : Instr} (h : Decodes w i) : firstRow w = i.row := by
  simp only [firstRow, opcodeRows, List.cons_append, List.nil_append, List.findIdx_cons, hits_eq_fields]
  cases h with
  | illegal hop => simp [Instr.row, ne_of_reserved hop]
  | _ => simp [Instr.row, *]

/-- Clearing the fields that an opcode ignores leaves the command as it was (R76). -/
theorem Decodes.decode_and_usedFields {w : Command} {i : Instr} (h : Decodes w i) :
    decode (w &&& usedFields (opField w)) = i := by
  cases h with
  | illegal hop => simp [usedFields, decode, ne_of_reserved hop]
  | _ => simp [usedFields, decode, decodeEvent, *]

theorem opField_usedFields (op : Byte) : opField (usedFields op) = 0xFF#8 := by
  simp [usedFields, apply_ite opField]

/-- Words that agree on the fields their opcode uses decode alike (R76). -/
theorem decode_eq_of_usedFields {w w' : Command}
    (h : w &&& usedFields (opField w) = w' &&& usedFields (opField w)) : decode w = decode w' := by
  have hop : opField w = opField w' := by simpa [opField_usedFields] using congrArg opField h
  calc
    decode w = decode (w &&& usedFields (opField w)) := (decodes_decode w).decode_and_usedFields.symm
    _ = decode (w' &&& usedFields (opField w')) := by rw [h, hop]
    _ = decode w' := (decodes_decode w').decode_and_usedFields

/-- Settles O1: the fields of an assembled word are its parts, and they select the command's own row. -/
theorem decodeEncodeRoundTrip : Obligations.DecodeEncodeRoundTrip := by
  intro i hwf
  cases i with
  | eventNoteOn data1 data2 =>
    have hdata2 : data2 ≠ 0x00#8 := bne_iff_ne.mp hwf
    simp [encode, decode, decodeEvent, hdata2]
  | eventIgnored status data1 data2 =>
    obtain ⟨hoff, hon⟩ : status ≠ 0x80#8 ∧ status ≠ 0x90#8 := by simpa [Instr.wellFormed] using hwf
    simp [encode, decode, decodeEvent, hoff, hon]
  | illegal op =>
    have hop : 0x0A ≤ op.toNat := of_decide_eq_true hwf
    simp [encode, decode, ne_of_reserved hop]
  | render channels samples =>
    have hsamples : samples.extractLsb' 8 8 ++ samples.extractLsb' 0 8 = samples :=
      BitVec.extractLsb'_append_extractLsb' (w := 8) (len := 8)
    simp [encode, decode, hsamples]
  | _ => simp [encode, decode, decodeEvent]

/-- Settles O2, by the row that the word's fields select. -/
theorem decodeTakesFirstTableRow : Obligations.DecodeTakesFirstTableRow := by
  intro w
  have h := decodes_decode w
  exact ⟨h.wellFormed, h.firstRow_eq.symm, h.firstRow_eq ▸ (decode w).row_lt⟩

/-- Settles O5: each clause is a case of the decoder's relation. -/
theorem operandsComeFromTheirFields : Obligations.OperandsComeFromTheirFields := fun _ =>
  ⟨fun hop hstatus => (Decodes.eventNoteOff hop hstatus).decode_eq,
    fun hop hstatus hdata2 => (Decodes.eventNoteOnV0 hop hstatus hdata2).decode_eq,
    fun hop hstatus hdata2 => (Decodes.eventNoteOn hop hstatus hdata2).decode_eq,
    fun hop hoff hon => (Decodes.eventIgnored hop hoff hon).decode_eq,
    fun hop => (Decodes.noteOn hop).decode_eq, fun hop => (Decodes.noteOff hop).decode_eq,
    fun hop => ⟨_, _, (Decodes.render hop).decode_eq, rfl, samples_toNat _ _⟩⟩

/-- Settles O4: each word is evaluated. -/
theorem specWordsDecode : Obligations.SpecWordsDecode := by
  unfold Obligations.SpecWordsDecode; decide

end Sys2Proof
end

section
/-! How every command answers, and who may issue it (spec/30_encoding.md R72, R75, R76, R77). -/

namespace Sys2Proof.Machine

/-! ### The one response -/

theorem answeredWith_settle {s : State} {r : Reply} (h : KeepsOutside s r.state) :
    answeredWith s r.settle r.status r.data := by
  simp only [answeredWith, ← h.issuer, ← h.port, Reply.settle, respond_port_issuer]
  exact ⟨rfl, rfl, rfl, fun p hp => respond_port_other _ _ _ _ hp⟩

theorem sameOutside_settle {s : State} {r : Reply} (h : KeepsOutside s r.state) : sameOutside s r.settle :=
  ⟨(respond_memPort _ _ _).trans h.memPort, (respond_issuer _ _ _).trans h.issuer,
    (respond_agenda _ _ _).trans h.agenda, (respond_epoch _ _ _).trans h.epoch⟩

/-- A response alone changes nothing but its own port. -/
theorem sameCore_respond (st : Status) (data : Word) (s : State) : sameCore s (respond st data s) := by
  simp [sameCore, sameParams, samePool, sameControls, sameSil, sameRam, sameRender, sameOutside, readRam]

theorem answers_without_effect (st : Status) (data : Word) (s : State) : ∃ t,
    complete ⟨s, st, data⟩ = .next t ∧ answeredWith s t st data ∧ sameCore s t :=
  ⟨_, rfl, answeredWith_settle (KeepsOutside.refl s), sameCore_respond st data s⟩

/-- Every command gives one response on the port that issued it, and leaves the outside alone (R63, R72). -/
theorem exec_answers (i : Instr) (s : State) : ∃ t st data,
    exec i s = .next t ∧ answeredWith s t st data ∧ sameOutside s t := by
  obtain ⟨r, hr, hkeep⟩ := exec_completes i s
  exact ⟨_, _, _, hr, answeredWith_settle hkeep, sameOutside_settle hkeep⟩

theorem responseWord_code (st : Status) (data : Word) : (responseWord st data).extractLsb' 56 8 = st.code := by
  apply BitVec.eq_of_toNat_eq
  have hcode := st.code.isLt; have hdata := data.isLt
  simp only [BitVec.extractLsb'_toNat, responseWord_toNat, Nat.shiftRight_eq_div_pow]
  omega

theorem responseWord_zeros (st : Status) (data : Word) : (responseWord st data).extractLsb' 32 24 = 0#24 :=
  eq_of_beq (Bool.and_eq_true_iff.mp (responseWord_wf st data)).1

theorem responseWord_data (st : Status) (data : Word) : (responseWord st data).extractLsb' 0 32 = data :=
  BitVec.extractLsb'_append_eq_right

/-- Settles O9: every command completes, and its one response is laid out as `responseWord` says. -/
theorem commandAnswersExactlyOnce : Obligations.CommandAnswersExactlyOnce :=
  ⟨exec_answers, fun st data => ⟨responseWord_code st data, responseWord_zeros st data, responseWord_data st data⟩,
    rfl, rfl, rfl, rfl⟩

/-- Settles O3: the bits that an opcode uses decide the command, and a response's bits 55:32 are 0. -/
theorem ignoredFieldsNeverMatter : Obligations.IgnoredFieldsNeverMatter := by
  refine ⟨fun w w' => decode_eq_of_usedFields, fun i s => ?_⟩
  obtain ⟨t, st, data, hexec, ⟨hresponses, -⟩, -⟩ := exec_answers i s
  exact ⟨t, _, hexec, hresponses, responseWord_zeros st data⟩

/-- Settles O24: the last row takes every opcode from 0x0A on, and its work is a refusal on any port. -/
theorem reservedOpcodeAnswersIllegal : Obligations.ReservedOpcodeAnswersIllegal :=
  ⟨fun _ hop => (Decodes.illegal hop).decode_eq, fun _ s => answers_without_effect .eIllegal 0#32 s⟩

/-! ### Admission on port A -/

theorem admittedOnA_iff (i : Instr) : admittedOnA i = true ↔
    i = .nop ∨ (∃ index value, i = .pset index value) ∨ ∃ index, i = .pget index := by
  cases i <;> simp [admittedOnA]

/-- Port A refuses every other command before any of its work (R77). -/
theorem exec_a_of_not_admitted {i : Instr} {s : State} (hs : s.issuer = .a) (hi : admittedOnA i = false) :
    exec i s = complete (failWith .eIllegal s) := by
  cases i with
  | nop => cases hi
  | pset => cases hi
  | pget => cases hi
  | illegal => rfl
  | _ => exact congrArg complete (portHOnly_a _ hs)

/-- The three commands of both ports always answer OK. -/
theorem exec_of_admitted {i : Instr} (hi : admittedOnA i = true) (s : State) :
    ∃ t data, exec i s = .next t ∧ answeredWith s t .ok data := by
  rcases (admittedOnA_iff i).mp hi with rfl | ⟨index, value, rfl⟩ | ⟨index, rfl⟩
  · exact ⟨_, _, rfl, answeredWith_settle (r := ⟨s, .ok, _⟩) (KeepsOutside.refl s)⟩
  · exact ⟨_, _, rfl, answeredWith_settle (r := ⟨_, .ok, _⟩) (psetState_keeps index value s)⟩
  · exact ⟨_, _, rfl, answeredWith_settle (r := ⟨s, .ok, _⟩) (KeepsOutside.refl s)⟩

/-- Settles O12, by whether port A admits the command. -/
theorem portAAdmitsThreeCommands : Obligations.PortAAdmitsThreeCommands := by
  intro i s hs
  simp only [← admittedOnA_iff]
  by_cases hi : admittedOnA i = true
  · obtain ⟨t, data, hexec, hanswer⟩ := exec_of_admitted hi s
    exact ⟨t, hexec, fun _ => ⟨data, hanswer⟩, fun hn => absurd hi hn⟩
  · obtain ⟨t, hfail, heffect⟩ := answers_without_effect .eIllegal 0#32 s
    exact ⟨t, (exec_a_of_not_admitted hs (Bool.eq_false_iff.mpr hi)).trans hfail, fun ha => absurd ha hi,
      fun _ => heffect⟩

end Sys2Proof.Machine
end

section
/-! The two commands of the voice pool: a note-on appends within the capacity, and a note-off ends the first match
(spec/40_voice_pool.md R90, R91, R97, R98). -/

namespace Sys2Proof.Machine

/-- What a command of the pool cannot change: all but the voices and the command ports. -/
def SameButPool (s t : State) : Prop :=
  sameParams s t ∧ sameControls s t ∧ sameSil s t ∧ sameRam s t ∧ sameRender s t ∧ sameOutside s t

theorem answers_with_voices (pool : List Voice) (st : Status) (data : Word) (s : State) : ∃ t,
    complete ⟨{ s with voices := pool }, st, data⟩ = .next t ∧ SameButPool s t ∧ t.voices = pool ∧
      answeredWith s t st data := by
  have hkeep : KeepsOutside s { s with voices := pool } := ⟨rfl, rfl, rfl, rfl, rfl, rfl⟩
  have ⟨hparams, _, hcontrols, hsil, hram, hrender, _⟩ := sameCore_respond st data { s with voices := pool }
  exact ⟨_, rfl, ⟨hparams, hcontrols, hsil, hram, hrender, sameOutside_settle hkeep⟩, respond_voices _ _ _,
    answeredWith_settle hkeep⟩

/-! ### Note-on -/

theorem exec_of_isNoteOn {i : Instr} {note velocity : Byte} {s : State} (hi : isNoteOn i note velocity)
    (hs : s.issuer = .h) : exec i s = complete (vpNoteOn note velocity s) := by
  rcases hi with rfl | rfl <;> exact congrArg complete (portHOnly_h _ hs)

theorem vpNoteOn_of_invalid {note velocity : Byte} (h : 127 < note.toNat ∨ 127 < velocity.toNat) (s : State) :
    vpNoteOn note velocity s = ⟨s, .eInval, 0#32⟩ := by
  refine if_neg fun hvalid => ?_
  simp only [sevenBit, Bool.and_eq_true, decide_eq_true_eq] at hvalid
  omega

section Valid
variable {note velocity : Byte} {s : State} (hnote : note.toNat ≤ 127) (hvelocity : velocity.toNat ≤ 127)
include hnote hvelocity

theorem vpNoteOn_of_room (hroom : s.voices.length < 16) : vpNoteOn note velocity s =
    ⟨{ s with voices := s.voices ++ [freshVoice note velocity] }, .ok, 0#32⟩ := by
  simp [vpNoteOn, sevenBit, Config.maxVoices, newVoice_eq_freshVoice, hnote, hvelocity, Nat.not_le.mpr hroom]

theorem vpNoteOn_of_full (hfull : s.voices.length = 16) : vpNoteOn note velocity s =
    ⟨{ s with voices := s.voices.tail ++ [freshVoice note velocity] }, .ok, 1#32⟩ := by
  have hne : s.voices ≠ [] := List.ne_nil_of_length_eq_add_one hfull
  simp [vpNoteOn, sevenBit, Config.maxVoices, newVoice_eq_freshVoice, hnote, hvelocity, hfull,
    List.tail_append_of_ne_nil hne]

theorem freshVoice_fields : (freshVoice note velocity).note.toNat = note.toNat ∧
    (freshVoice note velocity).velocity.toNat = velocity.toNat := by
  simp only [freshVoice, BitVec.extractLsb'_toNat, Nat.shiftRight_zero]
  omega

/-- A valid note-on answers OK, with DATA 1 just when the oldest voice had to go. -/
theorem complete_vpNoteOn (hlen : s.voices.length ≤ 16) :
    ∃ t, complete (vpNoteOn note velocity s) = .next t ∧ SameButPool s t ∧
      if s.voices.length = 16 then
        t.voices = s.voices.tail ++ [freshVoice note velocity] ∧ answeredWith s t .ok 1#32
      else t.voices = s.voices ++ [freshVoice note velocity] ∧ answeredWith s t .ok 0#32 := by
  split
  · next hfull =>
    rw [vpNoteOn_of_full hnote hvelocity hfull]
    exact answers_with_voices _ .ok 1#32 s
  · next hroom =>
    rw [vpNoteOn_of_room hnote hvelocity (by omega)]
    exact answers_with_voices _ .ok 0#32 s

end Valid

/-- Settles O25, by whether the operands are valid. -/
theorem noteOnCreatesVoice : Obligations.NoteOnCreatesVoice := by
  intro i note velocity s hi hs hlen
  rw [exec_of_isNoteOn hi hs]
  by_cases hinvalid : 127 < note.toNat ∨ 127 < velocity.toNat
  · rw [vpNoteOn_of_invalid hinvalid]
    obtain ⟨t, ht, hanswer, hparams, hpool, hcontrols, hsil, hram, hrender, houtside⟩ :=
      answers_without_effect .eInval 0#32 s
    exact ⟨t, ht, hparams, hcontrols, hsil, hram, hrender, houtside, fun _ => ⟨hanswer, hpool⟩, by omega⟩
  · have hvalid : note.toNat ≤ 127 ∧ velocity.toNat ≤ 127 := by omega
    obtain ⟨t, ht, ⟨hparams, hcontrols, hsil, hram, hrender, houtside⟩, heffect⟩ :=
      complete_vpNoteOn hvalid.1 hvalid.2 hlen
    have ⟨hnote, hvelocity⟩ := freshVoice_fields hvalid.1 hvalid.2
    exact ⟨t, ht, hparams, hcontrols, hsil, hram, hrender, houtside, fun h => absurd h hinvalid,
      fun _ _ => ⟨freshVoice note velocity, hnote, hvelocity, rfl, rfl, rfl, heffect⟩⟩

/-! ### A sequence of note-ons -/

theorem exec_noteOn_voices {note velocity : Byte} {s : State} (hnote : note.toNat ≤ 127)
    (hvelocity : velocity.toNat ≤ 127) (hlen : s.voices.length ≤ 16) :
    ∃ t, exec (.noteOn note velocity) { s with issuer := .h } = .next t ∧
      t.voices = (s.voices ++ [freshVoice note velocity]).drop (s.voices.length + 1 - 16) :=
  ⟨_, exec_of_isNoteOn (.inl rfl) rfl,
    (respond_voices _ _ _).trans (vpNoteOn_voices (s := { s with issuer := .h }) hnote hvelocity hlen)⟩

/-- One note-on after another, dropping what exceeds the capacity each time, is dropping once at the end. -/
theorem drop_excess_append {α : Type} (old new : List α) (x : α) (n : Nat) :
    ((old ++ [x]).drop (old.length + 1 - n) ++ new).drop
        (((old ++ [x]).drop (old.length + 1 - n)).length + new.length - n) =
      (old ++ x :: new).drop (old.length + (new.length + 1) - n) := by
  rw [← List.drop_append_of_le_length (by simp), List.drop_drop, List.append_assoc, List.singleton_append]
  congr 1
  simp only [List.length_drop, List.length_append, List.length_singleton]
  omega

/-- Settles O27, by induction on the sequence: what one note-on leaves is again within the capacity. -/
theorem poolKeepsSixteenNewest : Obligations.PoolKeepsSixteenNewest := by
  intro notes
  induction notes with
  | nil =>
    intro s hlen _
    exact ⟨s, rfl, hlen, by simp [Nat.sub_eq_zero_of_le hlen]⟩
  | cons x rest ih =>
    intro s hlen hvalid
    obtain ⟨⟨hnote, hvelocity⟩, hrest⟩ := List.forall_mem_cons.mp hvalid
    obtain ⟨u, hexec, hvoices⟩ := exec_noteOn_voices hnote hvelocity hlen
    have hle : u.voices.length ≤ 16 := by
      simp only [hvoices, List.length_drop, List.length_append, List.length_singleton]; omega
    obtain ⟨t, hseq, hfits, hpool⟩ := ih u hle hrest
    refine ⟨t, ?_, hfits, ?_⟩
    · simpa only [List.map_cons, execSeq, hexec] using hseq
    · rw [hpool, hvoices, ← List.length_map (as := rest) (f := fun x => freshVoice x.1 x.2), drop_excess_append]
      simp only [List.map_cons, List.length_cons, List.length_map]

/-! ### Note-off -/

theorem exec_of_isNoteOff {i : Instr} {note : Byte} {s : State} (hi : isNoteOff i note) (hs : s.issuer = .h) :
    exec i s = complete (vpNoteOff note s) := by
  rcases hi with rfl | ⟨data2, rfl⟩ | rfl <;> exact congrArg complete (portHOnly_h _ hs)

theorem offMatches_iff_endsAt (s : State) (note : Byte) (v : Voice) :
    offMatches s.offMode note v = true ↔ endsAt s note v := by
  have hnote : v.note.setWidth 8 = note ↔ v.note.toNat = note.toNat := by
    rw [← BitVec.toNat_inj, BitVec.toNat_setWidth_of_le (by decide)]
  simp [offMatches, endsAt, State.offMode, hnote]

theorem noteOffScan_of_no_match {off : Bool} {note : Byte} {vs : List Voice}
    (h : ∀ v ∈ vs, ¬offMatches off note v = true) : noteOffScan off note vs = none := by
  rcases noteOffScan_cases off note vs with ⟨hnone, -⟩ | ⟨pre, v, post, rfl, -, hmatch, -⟩
  · exact hnone
  · exact absurd hmatch (h v (by simp))

theorem noteOffScan_append_cons {off : Bool} {note : Byte} {pre : List Voice} {v : Voice} (post : List Voice)
    (hpre : ∀ u ∈ pre, ¬offMatches off note u = true) (hv : offMatches off note v = true) :
    noteOffScan off note (pre ++ v :: post) = some (pre ++ if off then v.release :: post else post) := by
  induction pre with
  | nil => exact if_pos hv
  | cons u pre ih =>
    obtain ⟨hu, hpre⟩ := List.forall_mem_cons.mp hpre
    simp [noteOffScan, hu, ih hpre]

/-- Settles O26: the scan passes over the voices before the first match, and ends that one alone. -/
theorem noteOffEndsFirstMatch : Obligations.NoteOffEndsFirstMatch := by
  intro i note s hi hs
  simp only [exec_of_isNoteOff hi hs, ← offMatches_iff_endsAt]
  refine ⟨fun hmiss => ?_, fun pre v post hpool hmatch hpre => ?_⟩
  · rw [vpNoteOff, noteOffScan_of_no_match hmiss]
    exact answers_without_effect .ok 0#32 s
  · rw [vpNoteOff, hpool, noteOffScan_append_cons post hpre hmatch]
    obtain ⟨t, ht, hsame, hvoices, hanswer⟩ :=
      answers_with_voices (pre ++ if s.offMode then v.release :: post else post) .ok 1#32 s
    exact ⟨t, ht, hanswer, hvoices, hsame⟩

end Sys2Proof.Machine
end

section
/-! FREQ_ROM against the real pitch, entry by entry (spec/40_voice_pool.md R94). -/

namespace Sys2Proof.Machine

/-- Twelfth powers make the comparison with 440 · 2^((n-69)/12) one of integers. -/
theorem freqRom_between_midpoints : ∀ note : BitVec 7, ∃ k ∈ finiteUnits (freqRom note),
    ∃ below ∈ finiteUnits (freqRom note - 1#32), ∃ above ∈ finiteUnits (freqRom note + 1#32),
      (k + below) ^ 12 * 2 ^ 69 < (440 * 2 ^ 150) ^ 12 * 2 ^ note.toNat ∧
      (440 * 2 ^ 150) ^ 12 * 2 ^ note.toNat < (k + above) ^ 12 * 2 ^ 69 := by
  decide +kernel

theorem freqRom_rises : ∀ note : BitVec 7, note.toNat < 127 → fgt (freqRom (note + 1#7)) (freqRom note) = true := by
  decide +kernel

/-- Settles O48, by the finite check of the 128 entries in exact integers. -/
theorem freqRomIsNearest : Obligations.FreqRomIsNearest := by
  refine ⟨fun note => ?_, rfl, rfl, freqRom_rises⟩
  obtain ⟨k, hk, below, hbelow, above, habove, hlow, hhigh⟩ := freqRom_between_midpoints note
  exact ⟨k, below, above, hk, hbelow, habove, hlow, hhigh⟩

end Sys2Proof.Machine
end

section
/-! Rounding keeps order, and what a product and a quotient are as one rounded magnitude (spec/00_scope.md R9, G1). -/

namespace Sys2Proof.Machine

theorem roundSteps_mono {num num' : Nat} (h : num ≤ num') {den : Nat} (hden : 0 < den) :
    roundSteps num den ≤ roundSteps num' den := by
  rcases Nat.eq_or_lt_of_le h with rfl | hlt
  · exact Nat.le_refl _
  · by_contra hgt
    have hunits := magUnits_mul_lt hden (Nat.lt_of_not_le hgt)
    have hnear := (roundSteps_nearest num hden (roundSteps num' den)).1
    have hnear' := (roundSteps_nearest num' hden (roundSteps num den)).1
    unfold magError at hnear hnear'
    omega

theorem roundMag_mono {num num' : Nat} (h : num ≤ num') {den : Nat} (hden : 0 < den) :
    roundMag num den ≤ roundMag num' den :=
  min_le_min_right _ (roundSteps_mono h hden)

/-- A sum of units that is not zero is at least one unit, and one unit is a magnitude. -/
theorem roundMag_one_ne_zero {num : Nat} (h : num ≠ 0) : roundMag num 1 ≠ 0 := by
  have hone : roundMag 1 1 = 1 := by decide
  have := roundMag_mono (Nat.one_le_iff_ne_zero.mpr h) Nat.one_pos
  omega

theorem natAbs_signedUnits (neg : Bool) (m e : Nat) : (signedUnits neg m e).natAbs = m * 2 ^ e :=
  Int.ofNat_inj.mp ((Int.natCast_natAbs _).trans (abs_signedUnits neg m e))

/-- A product of finite values is its sign on one rounded magnitude. -/
theorem fmul_eq_packSign {a b : F32} {ka kb : Int} (ha : finiteUnits a = some ka) (hb : finiteUnits b = some kb) :
    fmul a b = packSign (signBit a ^^ signBit b) (roundMag (ka.natAbs * kb.natAbs) (2 ^ 149)) := by
  obtain ⟨m, e, hx, rfl⟩ := unpack_of_finiteUnits ha
  obtain ⟨n, d, hy, rfl⟩ := unpack_of_finiteUnits hb
  rw [fmul, hx, hy, natAbs_signedUnits, natAbs_signedUnits, Nat.mul_mul_mul_comm, ← pow_add]

/-- A magnitude with its sign is never NaN, and orders by its units. -/
theorem orderKey_packSign (neg : Bool) {mag : Nat} (h : mag ≤ 0x7F800000) :
    orderKey (packSign neg mag) = some (signedUnits neg (magUnits mag) 0) := by
  rw [orderKey_eq, magBits_packSign h, if_neg h.not_gt, signBit_packSign h]

/-- A quotient of finite values too, when it does not divide by zero. -/
theorem fdiv_eq_packSign {a b : F32} {ka kb : Int} (ha : finiteUnits a = some ka) (hb : finiteUnits b = some kb)
    (hne : kb ≠ 0) :
    fdiv a b = packSign (signBit a ^^ signBit b) (roundMag (ka.natAbs * 2 ^ 149) kb.natAbs) := by
  obtain ⟨m, e, hx, rfl⟩ := unpack_of_finiteUnits ha
  obtain ⟨n, d, hy, rfl⟩ := unpack_of_finiteUnits hb
  have hn : n ≠ 0 := (signedUnits_eq_zero_iff _ _ _).not.mp hne
  simp only [fdiv, hx, hy, if_neg hn, natAbs_signedUnits, pow_add, Nat.mul_assoc]

/-! ### Finite, zero and not finite -/

theorem exists_finiteUnits {x : F32} (h : isFinite x = true) : ∃ k, finiteUnits x = some k := by
  obtain ⟨neg, m, e, hx⟩ := (isFinite_iff x).mp h
  exact ⟨_, by rw [finiteUnits, if_pos h, orderKey, hx]⟩

theorem eq_zeroOf {x : F32} (h : finiteUnits x = some 0) : x = zeroOf (signBit x) := by
  rw [finiteUnits_eq] at h
  split_ifs at h
  have hunits : magUnits (magBits x) = magUnits 0 := (signedUnits_eq_zero_iff _ _ _).mp (Option.some_inj.mp h)
  rw [← packSign_zero, ← magUnits_strictMono.injective hunits, packSign_signBit_magBits]

/-- A sum with an operand that is not finite is not finite (R9). -/
theorem isFinite_fadd_eq_false {a b : F32} (h : isFinite a = false ∨ isFinite b = false) :
    isFinite (fadd a b) = false := by
  unfold fadd
  split
  case h_6 ha hb => simp [isFinite, ha, hb] at h
  case h_3 => split <;> simp [isFinite]
  all_goals simp [isFinite]

theorem fmul_comm (a b : F32) : fmul a b = fmul b a := by
  unfold fmul
  cases unpack a <;> cases unpack b <;> simp [Bool.xor_comm, Nat.mul_comm, Nat.add_comm]

end Sys2Proof.Machine
end

section
/-! The harmonics that are not skipped, and the sum over them (spec/41_oscillator_bank.md R111 to R124). -/

namespace Sys2Proof.Machine

/-! ### The formulas of one sample -/

theorem envelope_eq_gainBySpec (s : State) (t : Nat) (released : Bool) (relAge : Nat) :
    envelope s t released relAge = gainBySpec s t released relAge := by
  cases released <;> rfl

theorem snapCell_eq_getD (snap : Vector F32 17) (n : Nat) : snapCell snap n = snap.toList.getD n 0#32 := by
  rw [snapCell, List.getD_eq_getElem?_getD, Vector.getElem?_toList]
  rfl

/-- The sum over the survivors is the pseudocode's loop, which passes over the skipped harmonics (R116). -/
theorem harmonicSum_eq_loop (snap : Vector F32 17) (vf pitch half phi : F32) :
    harmonicSum snap vf pitch half phi = (List.range' 1 16).foldl
      (fun acc n => if skipped pitch n half then acc else fadd acc (harmonicTerm snap vf n phi)) fZero := by
  have hrange : (List.range Config.numPartials).map (· + 1) = List.range' 1 16 := rfl
  rw [harmonicSum, survivors, hrange, List.foldl_filter]
  congr 1
  funext acc n
  cases skipped pitch n half <;> rfl

/-- Settles O41: the loop over the harmonics is the fold over the survivors, and the rest is the same formula. -/
theorem sampleFollowsItsPseudocode : Obligations.SampleFollowsItsPseudocode := by
  refine ⟨fun s snap v i => ?_, fun s t relAge released => envelope_eq_gainBySpec s t released relAge⟩
  have hamplitude : snapCell snap 0 = snap[0] := rfl
  simp only [monoSample, harmonicSum_eq_loop, envelope_eq_gainBySpec, harmonicTerm, hamplitude, snapCell_eq_getD]
  rfl

/-- Settles O44: a skipped harmonic is not among the survivors, and the sum reads no other gain. -/
theorem skippedHarmonicIsNeverRead : Obligations.SkippedHarmonicIsNeverRead := by
  intro s snap v i n gain hn hpos hskip
  have hcell : ∀ k, k ≠ n → snapCell (snap.set n gain) k = snapCell snap k := fun k hk => by
    rw [snapCell, snapCell, Vector.getElem?_set_ne hn hk.symm]
  have hsum : ∀ vf phi, harmonicSum (snap.set n gain) vf (freqRom v.note) (nyquist s.sampleRate) phi =
      harmonicSum snap vf (freqRom v.note) (nyquist s.sampleRate) phi := fun vf phi => by
    refine List.foldl_ext _ _ _ fun acc k hk => ?_
    have hne : k ≠ n := by
      rintro rfl
      simp [survivors, hskip] at hk
    rw [harmonicTerm, hcell 0 (by omega), hcell k hne, harmonicTerm]
  simp only [monoSample, hsum]

/-! ### The sign of the sum -/

/-- Only two -0.0s add to -0.0: an exact sum that is not zero does not round to zero. -/
theorem left_of_fadd_eq_negZero {a b : F32} (h : fadd a b = 0x80000000#32) : a = 0x80000000#32 := by
  by_cases hfin : isFinite a = false ∨ isFinite b = false
  · have hsum := isFinite_fadd_eq_false hfin
    rw [h] at hsum
    cases hsum
  simp only [not_or, Bool.not_eq_false] at hfin
  obtain ⟨ka, ha⟩ := exists_finiteUnits hfin.1
  obtain ⟨kb, hb⟩ := exists_finiteUnits hfin.2
  rw [fadd_eq_roundSum ha hb] at h
  by_cases hsum : ka + kb = 0
  · rw [roundSum_of_eq_zero hsum] at h
    obtain ⟨hsa, hsb⟩ : signBit a = true ∧ signBit b = true := by
      cases hsa : signBit a <;> cases hsb : signBit b <;> simp [hsa, hsb, zeroOf] at h ⊢
    have hnonpos {x : F32} {k : Int} (hx : finiteUnits x = some k) (hs : signBit x = true) : k ≤ 0 := by
      obtain ⟨m, e, -, rfl⟩ := unpack_of_finiteUnits hx
      simp [hs, signedUnits]
    have hka := hnonpos ha hsa
    have hkb := hnonpos hb hsb
    obtain rfl : ka = 0 := by omega
    rw [eq_zeroOf ha, hsa]
    rfl
  · have hmag := congrArg magBits h
    rw [roundSum, if_neg hsum, magBits_packSign (roundMag_le _ _)] at hmag
    exact absurd hmag (roundMag_one_ne_zero (Int.natAbs_ne_zero.mpr hsum))

/-- Settles O45: the sum starts at +0.0, and adding a term to a value other than -0.0 never gives -0.0. -/
theorem harmonicSumIsNeverMinusZero : Obligations.HarmonicSumIsNeverMinusZero := by
  intro snap vf pitch half phi
  exact List.foldlRecOn (motive := (· ≠ 0x80000000#32)) _ _ (by decide) fun _ h _ _ =>
    mt left_of_fadd_eq_negZero h

/-! ### Which harmonics survive -/

/-- The first numbers of an initial run of a downward closed property are its members. -/
theorem filter_eq_initial_run {p : Nat → Bool} (m : Nat)
    (hp : ∀ k n, k ≤ n → n ≤ m → p n = true → p k = true) :
    ∃ k, k ≤ m ∧ ((List.range m).map (· + 1)).filter p = (List.range k).map (· + 1) := by
  induction m with
  | zero => exact ⟨0, Nat.le_refl 0, rfl⟩
  | succ m ih =>
    by_cases hlast : p (m + 1) = true
    · refine ⟨m + 1, Nat.le_refl _, List.filter_eq_self.mpr fun n hn => ?_⟩
      obtain ⟨j, hj, rfl⟩ := List.mem_map.mp hn
      have := List.mem_range.mp hj
      exact hp _ (m + 1) (by omega) (Nat.le_refl _) hlast
    · obtain ⟨k, hk, hrun⟩ := ih fun k n hkn hn => hp k n hkn (by omega)
      exact ⟨k, by omega, by simp [List.range_succ, hlast, hrun]⟩

theorem finiteUnits_cvt32 {n : Nat} (hn : n ≤ 16) : finiteUnits (cvt32 n) = some ((n * 2 ^ 149 : Nat) : Int) := by
  have h : ∀ n : Fin 17, finiteUnits (cvt32 n) = some ((n * 2 ^ 149 : Nat) : Int) := by decide
  exact h ⟨n, by omega⟩

/-- Every pitch is below 2^14 Hz (R94). -/
theorem freqRom_units (note : BitVec 7) : signBit (freqRom note) = false ∧
    ∃ k : Nat, finiteUnits (freqRom note) = some (k : Int) ∧ k < 2 ^ 163 := by
  have h : ∀ note : BitVec 7, signBit (freqRom note) = false ∧
      ∃ k ∈ finiteUnits (freqRom note), 0 ≤ k ∧ k < 2 ^ 163 := by
    decide +kernel
  obtain ⟨hsign, k, hk, hpos, hlt⟩ := h note
  exact ⟨hsign, k.toNat, by rw [hk, Int.toNat_of_nonneg hpos], by omega⟩

/-- What a pitch's harmonic frequencies are worth: they rise with the harmonic and stay below infinity. -/
theorem exists_harmonicUnits (note : BitVec 7) : ∃ units : Nat → Nat, Monotone units ∧ ∀ n ≤ 16,
    (units n : Int) < infUnits ∧ orderKey (fmul (freqRom note) (cvt32 n)) = some (units n : Int) := by
  obtain ⟨hsign, k, hk, hlt⟩ := freqRom_units note
  refine ⟨fun n => magUnits (roundMag (k * (n * 2 ^ 149)) (2 ^ 149)), fun n n' hle => ?_, fun n hn => ⟨?_, ?_⟩⟩
  · exact magUnits_strictMono.monotone (roundMag_mono (by gcongr) (by positivity))
  · have hfin : roundMag (k * (n * 2 ^ 149)) (2 ^ 149) < 0x7F800000 := by
      rw [roundMag_eq_min, min_lt_iff, roundSteps_lt_inf_iff _ (by positivity)]
      left
      calc k * (n * 2 ^ 149) ≤ 2 ^ 163 * (16 * 2 ^ 149) := by gcongr
        _ < (2 ^ 25 - 1) * 2 ^ 252 * 2 ^ 149 := by norm_num
    exact Int.ofNat_lt.mpr (magUnits_strictMono hfin)
  · rw [fmul_eq_packSign hk (finiteUnits_cvt32 hn), hsign, (cvt32_roundsTo n).2, Int.natAbs_natCast,
      Int.natAbs_natCast, Bool.xor_false, orderKey_packSign _ (roundMag_le _ _)]
    simp [signedUnits]

/-- A harmonic above a skipped one is skipped too (R124). -/
theorem skipped_mono {note : BitVec 7} {k n : Nat} {half : F32} (hkn : k ≤ n) (hn : n ≤ 16)
    (h : skipped (freqRom note) k half = true) : skipped (freqRom note) n half = true := by
  obtain ⟨units, hmono, hunits⟩ := exists_harmonicUnits note
  cases hhalf : orderKey half with
  | none => simp [skipped, fge, hhalf] at h
  | some y =>
    rw [skipped, fge_eq (hunits k (by omega)).2 hhalf, decide_eq_true_iff] at h
    rw [skipped, fge_eq (hunits n hn).2 hhalf, decide_eq_true_iff]
    exact h.trans (Int.ofNat_le.mpr (hmono hkn))

/-- Settles O46: the harmonics that are not skipped are downward closed. -/
theorem survivorsAreAnInitialRun : Obligations.SurvivorsAreAnInitialRun := by
  intro note half
  refine filter_eq_initial_run 16 fun k n hkn hn hkeep => ?_
  rw [Bool.not_eq_true'] at hkeep ⊢
  by_contra hskip
  rw [skipped_mono hkn hn (Bool.eq_true_of_not_eq_false hskip)] at hkeep
  cases hkeep

theorem finiteUnits_fTwo : finiteUnits fTwo = some (2 ^ 150) := by decide

/-- A rate at or below zero gives a Nyquist frequency at or below zero. -/
theorem orderKey_nyquist_nonpos {sr : F32} (h : fge 0x00000000#32 sr = true) :
    ∃ y ≤ 0, orderKey (nyquist sr) = some y := by
  have hzero : finiteUnits 0x00000000#32 = some 0 := by decide
  obtain ⟨hnan, -, -⟩ | ⟨hinf, -, -⟩ | ⟨m, e, hfin, -, hmag⟩ := pattern_cases sr
  · rw [(nan_propagates (.inr hnan)).2.2.2.2.1] at h
    cases h
  · obtain ⟨-, -, hbelow, -⟩ := inf_compare_finite (signBit sr) hzero
    rw [← hinf, h] at hbelow
    have hhalf : nyquist sr = infOf true := by
      rw [nyquist, hinf, ← hbelow, (inf_with_finite true finiteUnits_fTwo).2.2.2.2.1]
      rfl
    exact ⟨_, neg_nonpos.mpr infUnits_pos.le, hhalf ▸ orderKey_infOf true⟩
  · have hunits := (finiteUnits_eq sr).trans (if_pos hmag)
    rw [(finite_compare hzero hunits).1] at h
    rw [nyquist, fdiv_eq_packSign hunits finiteUnits_fTwo (by norm_num), orderKey_packSign _ (roundMag_le _ _)]
    refine ⟨_, ?_, rfl⟩
    cases hs : signBit sr with
    | true => simp [signedUnits, signBit, fTwo]
    | false =>
      have : magUnits (magBits sr) = 0 := by simpa [signedUnits, hs] using h
      simp [this, signedUnits, roundMag_zero]

/-- Settles O47, by what the Nyquist frequency is worth. -/
theorem rateDecidesTheCut : Obligations.RateDecidesTheCut := by
  intro note n sr _ hn
  obtain ⟨units, -, hunits⟩ := exists_harmonicUnits note
  obtain ⟨hfinite, hkey⟩ := hunits n hn
  refine ⟨fun h => ?_, ?_, fun h => ?_⟩
  · obtain ⟨y, hy, hhalf⟩ := orderKey_nyquist_nonpos h
    rw [skipped, fge_eq hkey hhalf, decide_eq_true_iff]
    omega
  · rintro rfl
    have hhalf : orderKey (nyquist 0x7F800000#32) = some infUnits := by decide
    rw [skipped, fge_eq hkey hhalf, decide_eq_false_iff_not]
    omega
  · rw [nyquist, fdiv_nan_left _ ((orderKey_eq_none_iff sr).mp h), skipped]
    exact (nan_propagates (.inr isNanPattern_arithNan)).2.2.2.2.1

/-- Settles O55, by the finite check of the 128 velocities. -/
theorem velocityFactorRange : Obligations.VelocityFactorRange := by
  unfold Obligations.VelocityFactorRange
  decide +kernel

end Sys2Proof.Machine
end

section
/-! What one voice adds to a block, and a block whose partial gains are all zero (spec/41_oscillator_bank.md R118,
R122; spec/44_renderer.md R153, R155). -/

namespace Sys2Proof.Machine

/-! ### The words that a voice reaches -/

/-- Settles O42: the fold over the samples reaches a word once, in the sample and channel that it names. -/
theorem oscillatorAddsMonoToEveryChannel : Obligations.OscillatorAddsMonoToEveryChannel := by
  intro s job m v hblock
  refine ⟨fun c i hc hi => ?_, fun a ha => ?_⟩
  · refine foldl_effect_once (read := fun m : Memory => m.word s.epoch (sampleWord c i))
      (effect := fun w => fadd w (monoSample s job.snap v i)) (x := i) (fun m j hj hne => ?_)
      (fun m => word_addSample hc v m) List.nodup_range (List.mem_range.mpr hi) m
    have hj := List.mem_range.mp hj
    have hfind := addSample_find_outside s job v m j (sampleWord c i) fun d _ e =>
      hne (sampleWord_inj (hi.trans_le hblock) (hj.trans_le hblock) e).2.symm
    simp only [Memory.word, hfind]
  · have hout : a ∉ region job := fun hmem =>
      have ⟨c, i, hc, hi, e⟩ := (mem_region job a).mp hmem
      ha c i hc hi e
    simp only [Memory.word, oscVoice_find_outside s job m v a hout]

/-- After the mix a word of the block holds the voices' sum, or +0.0 when the block faults (R153 to R155). -/
theorem word_mixBlock {s : State} {job : RenderJob} (hrange : renderInRange job.channels job.samples = true)
    {c i : Nat} (hc : c < job.channels.toNat) (hi : i < job.samples.toNat) :
    (mixBlock job s).ram.word s.epoch (sampleWord c i) =
      if blockFaults s.epoch job (sumVoices s job) then 0#32
      else s.voices.foldl (fun acc v => fadd acc (monoSample s job.snap v i)) fZero := by
  unfold mixBlock
  dsimp only
  split
  · exact word_zero ((mem_region job _).mpr ⟨c, i, hc, hi, rfl⟩) _ _
  · exact word_sumVoices hrange hc hi

/-- What the host memory port reads of a block after its RENDER (R150). -/
theorem readRam_settle_renderFinish {s : State} {job : RenderJob}
    (hrange : renderInRange job.channels job.samples = true) {c i : Nat} (hc : c < job.channels.toNat)
    (hi : i < job.samples.toNat) : readRam (sampleWord c i) (renderFinish job s).settle =
      (mixBlock job s).ram.word s.epoch (sampleWord c i) := by
  have hlt := region_lt hrange _ ((mem_region job _).mpr ⟨c, i, hc, hi, rfl⟩)
  rw [readRam, if_pos hlt, Reply.settle, respond_ram, respond_epoch, renderFinish_ram, (renderFinish_keeps job s).epoch]

/-! ### Silence -/

/-- A zero of either sign, or NaN: what arithmetic can make of a zero factor. -/
def ZeroOrNan (x : F32) : Prop := (∃ neg, x = zeroOf neg) ∨ unpack x = .nan

theorem zeroOrNan_fmul_left {a : F32} (h : ZeroOrNan a) (b : F32) : ZeroOrNan (fmul a b) := by
  obtain ⟨neg, rfl⟩ | hnan := h
  · have hzero : unpack (zeroOf neg) = .fin neg 0 0 := by cases neg <;> decide
    cases hb : unpack b with
    | nan => exact .inr (by rw [fmul_nan_right _ hb, unpack_arithNan])
    | inf t => exact .inr (by simp [fmul, hzero, hb])
    | fin t n d => exact .inl ⟨neg ^^ t, by simp [fmul, hzero, hb, roundMag_zero, packSign_zero]⟩
  · exact .inr (by rw [fmul_nan_left b hnan, unpack_arithNan])

theorem zeroOrNan_fmul_right (a : F32) {b : F32} (h : ZeroOrNan b) : ZeroOrNan (fmul a b) :=
  fmul_comm b a ▸ zeroOrNan_fmul_left h a

/-- Zeros of either sign added to +0.0 leave +0.0, and a NaN stays (R9). -/
theorem foldl_fadd_zeroOrNan {α : Type} {term : α → F32} {l : List α} (h : ∀ x ∈ l, ZeroOrNan (term x)) :
    l.foldl (fun acc x => fadd acc (term x)) fZero = fZero ∨
      unpack (l.foldl (fun acc x => fadd acc (term x)) fZero) = .nan := by
  refine List.foldlRecOn (motive := fun acc => acc = fZero ∨ unpack acc = .nan) l _ (.inl rfl)
    fun acc hacc x hx => ?_
  obtain rfl | hnan := hacc
  · obtain ⟨neg, hterm⟩ | hnan := h x hx
    · rw [hterm]
      exact .inl (by cases neg <;> decide)
    · exact .inr (by rw [fadd_nan_right _ hnan, unpack_arithNan])
  · exact .inr (by rw [fadd_nan_left _ hnan, unpack_arithNan])

/-- With every partial gain zero, a voice's sample is a zero or NaN, whatever else it is made of. -/
theorem zeroOrNan_monoSample {snap : Vector F32 17}
    (h : ∀ (k : Nat) (hk : k < 17), 1 ≤ k → snap[k] = 0x00000000#32 ∨ snap[k] = 0x80000000#32)
    (s : State) (v : Voice) (i : Nat) : ZeroOrNan (monoSample s snap v i) := by
  refine zeroOrNan_fmul_left ?_ _
  have hsum := foldl_fadd_zeroOrNan (term := fun n => harmonicTerm snap (velocityFactor v.velocity) n
    (phase (timeIndex v.age i) (freqRom v.note) s.sampleRate))
    (l := survivors (freqRom v.note) (nyquist s.sampleRate)) fun n hn => ?_
  · exact hsum.imp_left fun h => ⟨false, h⟩
  · obtain ⟨j, hj, rfl⟩ := List.mem_map.mp (List.mem_of_mem_filter hn)
    have hlt : j + 1 < 17 := Nat.succ_lt_succ (List.mem_range.mp hj)
    have hcell : snapCell snap (j + 1) = snap[j + 1] := by simp [snapCell, hlt]
    refine zeroOrNan_fmul_left (zeroOrNan_fmul_right _ ?_) _
    rw [hcell]
    exact .inl ((h _ hlt (by omega)).elim (fun h => ⟨false, h⟩) fun h => ⟨true, h⟩)

/-- Settles O43: every word is +0.0 or NaN before the fault check, and a NaN silences the block. -/
theorem zeroGainsAreSilent : Obligations.ZeroGainsAreSilent := by
  intro c n s hs hn hc hgains
  have hrange : renderInRange c n = true := (renderInRange_iff c n).mpr ⟨hn, hc⟩
  refine ⟨_, exec_render_of_range hs hrange, fun ch i hch hi => ?_⟩
  refine (readRam_settle_renderFinish (job := ⟨s.params, c, n⟩) hrange hch hi).trans ?_
  rw [word_mixBlock (job := ⟨s.params, c, n⟩) hrange hch hi]
  split
  · rfl
  · next hfine =>
    refine (foldl_fadd_zeroOrNan fun v _ => zeroOrNan_monoSample hgains _ v i).resolve_right fun hnan => hfine ?_
    refine List.any_eq_true.mpr ⟨sampleWord ch i, (mem_region _ _).mpr ⟨ch, i, hch, hi, rfl⟩, ?_⟩
    rw [word_sumVoices (job := ⟨s.params, c, n⟩) hrange hch hi, isFinite, hnan]
    rfl

end Sys2Proof.Machine
end

section
/-! The fixed-point sine and cosine against the real ones: π by Machin's formula, and the series by its complex
exponential (spec/41_oscillator_bank.md R120; log entry 1). -/

namespace Sys2Proof.Machine

open Real

/-! ### π -/

/-- The sum of the first `terms` terms of arctan's series at `1 / k`. -/
def arctanSum (k terms : Nat) : ℚ :=
  ∑ n ∈ Finset.range terms, (-1) ^ n * ((1 / k) ^ (2 * n + 1) / (2 * n + 1))

theorem arctanSum_bounds {k : Nat} (hk : 2 ≤ k) (half : Nat) :
    (arctanSum k (2 * half) : ℝ) ≤ arctan (k : ℝ)⁻¹ ∧ arctan (k : ℝ)⁻¹ ≤ arctanSum k (2 * half + 1) := by
  have hinv : (k : ℝ)⁻¹ ≤ 1 / 2 := by
    rw [one_div]
    exact inv_anti₀ (by norm_num) (by exact_mod_cast hk)
  have hpos : (0 : ℝ) < (k : ℝ)⁻¹ := by positivity
  have hlim := (hasSum_arctan (x := (k : ℝ)⁻¹) (by rw [norm_eq_abs, abs_of_pos hpos]; linarith)).tendsto_sum_nat
  have hcast (terms : Nat) : (arctanSum k terms : ℝ) =
      ∑ n ∈ Finset.range terms, (-1) ^ n * ((k : ℝ)⁻¹ ^ (2 * n + 1) / ((2 * n + 1 : Nat) : ℝ)) := by
    simp [arctanSum]
  have hanti : Antitone fun n : Nat => (k : ℝ)⁻¹ ^ (2 * n + 1) / ((2 * n + 1 : Nat) : ℝ) := fun m n hmn => by
    have hpow : (k : ℝ)⁻¹ ^ (2 * n + 1) ≤ (k : ℝ)⁻¹ ^ (2 * m + 1) :=
      pow_le_pow_of_le_one hpos.le (by linarith) (by omega)
    have hden : ((2 * m + 1 : Nat) : ℝ) ≤ ((2 * n + 1 : Nat) : ℝ) := by exact_mod_cast (by omega)
    exact div_le_div₀ (by positivity) hpow (by positivity) hden
  simp only [mul_div_assoc] at hlim
  rw [hcast, hcast]
  exact ⟨hanti.alternating_series_le_tendsto hlim half, hanti.tendsto_le_alternating_series hlim half⟩

/-- The model's π against Machin's formula, in exact rationals. -/
theorem piScaled_between_machin :
    (piScaled : ℚ) ≤ 4 * (4 * arctanSum 5 110 - arctanSum 239 33) * 2 ^ 512 ∧
      4 * (4 * arctanSum 5 111 - arctanSum 239 32) * 2 ^ 512 < piScaled + 1 := by
  decide +kernel

/-- `piScaled` is π on the grid, rounded down. -/
theorem piScaled_bounds : (piScaled : ℝ) ≤ π * 2 ^ 512 ∧ π * 2 ^ 512 < piScaled + 1 := by
  obtain ⟨hlow, hhigh⟩ := piScaled_between_machin
  rw [← Rat.cast_le (K := ℝ)] at hlow
  rw [← Rat.cast_lt (K := ℝ)] at hhigh
  push_cast at hlow hhigh
  have hmachin := four_mul_arctan_inv_5_sub_arctan_inv_239
  obtain ⟨hlow5, hhigh5⟩ := arctanSum_bounds (k := 5) (by norm_num) 55
  obtain ⟨hlow239, hhigh239⟩ := arctanSum_bounds (k := 239) (by norm_num) 16
  norm_num only [Nat.cast_ofNat] at hlow5 hhigh5 hlow239 hhigh239 hmachin
  constructor
  · refine hlow.trans ?_
    gcongr
    linarith
  · refine lt_of_le_of_lt ?_ hhigh
    gcongr
    linarith

/-! ### The series -/

/-- The nested product that `taylorTail` follows, on reals. -/
noncomputable def taylorReal (u : ℝ) : (terms i : Nat) → ℝ
  | 0, _ => 1
  | terms + 1, i => 1 - u * taylorReal u terms (i + 2) / (i * (i + 1))

open Finset in
/-- Unfolded, the nested product is a partial sum of an alternating series. -/
theorem taylorReal_eq_sum (u : ℝ) (terms i : Nat) : taylorReal u terms (i + 1) =
    i.factorial * ∑ k ∈ range (terms + 1), (-u) ^ k / (i + 2 * k).factorial := by
  induction terms generalizing i with
  | zero => simp [taylorReal, Nat.factorial_ne_zero]
  | succ terms ih =>
    have hfact : ((i + 2).factorial : ℝ) = (i + 1 + 1) * ((i + 1) * i.factorial) := by
      push_cast [Nat.factorial_succ]; ring
    have hne : (i.factorial : ℝ) ≠ 0 := by positivity
    have hterm (k : Nat) :
        (-u) ^ (k + 1) / (i + 2 * (k + 1)).factorial = -u * ((-u) ^ k / (i + 2 + 2 * k).factorial) := by
      rw [pow_succ', mul_div_assoc, show i + 2 * (k + 1) = i + 2 + 2 * k by ring]
    rw [sum_range_succ', taylorReal, ih (i + 2), hfact]
    simp only [hterm, ← mul_sum, Nat.mul_zero, Nat.add_zero]
    generalize ∑ k ∈ range (terms + 1), (-u) ^ k / ((i + 2 + 2 * k).factorial : ℝ) = tail
    push_cast
    field_simp
    ring

open Finset Complex in
/-- The partial sums of the exponential of `x i` are those of the cosine and the sine. -/
theorem sum_exp_mul_I (x : ℝ) (n : Nat) :
    ∑ m ∈ range (2 * n), (x * I) ^ m / (m.factorial : ℂ) =
      ((∑ k ∈ range n, (-x ^ 2) ^ k / (2 * k).factorial : ℝ) : ℂ) +
        ((x * ∑ k ∈ range n, (-x ^ 2) ^ k / (1 + 2 * k).factorial : ℝ) : ℂ) * I := by
  induction n with
  | zero => simp
  | succ n ih =>
    have heven : ((x : ℂ) * I) ^ (2 * n) = (-x ^ 2) ^ n := by rw [pow_mul, mul_pow, I_sq]; ring
    have hodd : ((x : ℂ) * I) ^ (2 * n + 1) = (-x ^ 2) ^ n * (x * I) := by rw [pow_succ, heven]
    rw [show 2 * (n + 1) = 2 * n + 1 + 1 by ring, sum_range_succ, sum_range_succ, ih, heven, hodd,
      sum_range_succ, sum_range_succ, Nat.add_comm 1 (2 * n)]
    push_cast
    ring

theorem taylor_remainder_le {x : ℝ} (h0 : 0 ≤ x) (h2 : x ≤ 2) :
    x ^ (2 * 49) / (2 * 49).factorial * 2 ≤ 1 / 2 ^ 400 := by
  have hfact : 2 ^ (2 * 49) * 2 * 2 ^ 400 ≤ (2 * 49).factorial := by decide +kernel
  have hfact' : (2 : ℝ) ^ (2 * 49) * 2 * 2 ^ 400 ≤ (2 * 49).factorial := by exact_mod_cast hfact
  rw [div_mul_eq_mul_div, div_le_div_iff₀ (by positivity) (by positivity), one_mul]
  refine le_trans ?_ hfact'
  gcongr

/-- What 48 levels leave out for an argument up to 2. -/
theorem taylorReal_near {x : ℝ} (h0 : 0 ≤ x) (h2 : x ≤ 2) :
    |cos x - taylorReal (x ^ 2) 48 1| ≤ 1 / 2 ^ 400 ∧ |sin x - x * taylorReal (x ^ 2) 48 2| ≤ 1 / 2 ^ 400 := by
  have hnorm : ‖(x : ℂ) * Complex.I‖ = x := by simp [abs_of_nonneg h0]
  have hbound := Complex.exp_bound' (x := x * Complex.I) (n := 2 * 49) (by rw [hnorm]; norm_num; linarith)
  have hcos := taylorReal_eq_sum (x ^ 2) 48 0
  have hsin := taylorReal_eq_sum (x ^ 2) 48 1
  simp only [Nat.factorial_zero, Nat.factorial_one, Nat.cast_one, one_mul, Nat.zero_add, Nat.reduceAdd] at hcos hsin
  have hparts : Complex.exp (x * Complex.I) - ∑ m ∈ Finset.range (2 * 49), (x * Complex.I) ^ m / (m.factorial : ℂ) =
      ((cos x - taylorReal (x ^ 2) 48 1 : ℝ) : ℂ) + ((sin x - x * taylorReal (x ^ 2) 48 2 : ℝ) : ℂ) * Complex.I := by
    rw [sum_exp_mul_I, ← hcos, ← hsin, Complex.exp_mul_I]
    push_cast
    ring
  rw [hparts, hnorm] at hbound
  replace hbound := hbound.trans (taylor_remainder_le h0 h2)
  generalize cos x - taylorReal (x ^ 2) 48 1 = re at hbound ⊢
  generalize sin x - x * taylorReal (x ^ 2) 48 2 = im at hbound ⊢
  exact ⟨by simpa using (Complex.abs_re_le_norm _).trans hbound, by simpa using (Complex.abs_im_le_norm _).trans hbound⟩

/-! ### The fixed-point evaluation -/

/-- From the second level on, a level's factor is at most 1/6 of its argument. -/
theorem six_le_level {i : Nat} (hi : 2 ≤ i) : (6 : ℝ) ≤ i * (i + 1) := by
  exact_mod_cast (Nat.mul_le_mul hi (Nat.succ_le_succ hi) : 2 * 3 ≤ i * (i + 1))

theorem taylorReal_mem_unit {u : ℝ} (h0 : 0 ≤ u) (h4 : u ≤ 4) (terms : Nat) {i : Nat} (hi : 2 ≤ i) :
    0 ≤ taylorReal u terms i ∧ taylorReal u terms i ≤ 1 := by
  induction terms generalizing i with
  | zero => norm_num [taylorReal]
  | succ terms ih =>
    obtain ⟨htail0, htail1⟩ := ih (i := i + 2) (by omega)
    have hlevel := six_le_level hi
    have hpos : (0 : ℝ) < i * (i + 1) := by linarith
    have hprod : u * taylorReal u terms (i + 2) ≤ 4 := by
      calc u * taylorReal u terms (i + 2) ≤ u * 1 := by gcongr
        _ ≤ 4 := by linarith
    rw [taylorReal, sub_nonneg, div_le_one hpos, sub_le_self_iff]
    exact ⟨by linarith, by positivity⟩

theorem oneScaled_cast : (oneScaled : ℝ) = 2 ^ 512 := by
  norm_num only [oneScaled, Nat.cast_pow, Nat.cast_ofNat]

/-- A truncated difference is no farther from a value that is not negative than the exact one. -/
theorem abs_natSub_sub_le (a b : Nat) {y : ℝ} (hy : 0 ≤ y) : |((a - b : Nat) : ℝ) - y| ≤ |(a : ℝ) - b - y| := by
  rcases Nat.le_total b a with hle | hle
  · rw [Nat.cast_sub hle]
  · have hle' : (a : ℝ) ≤ b := by exact_mod_cast hle
    rw [Nat.sub_eq_zero_of_le hle, Nat.cast_zero, zero_sub, abs_neg, abs_of_nonneg hy, abs_of_nonpos (by linarith)]
    linarith

/-- A quotient rounded down is within one of the exact one. -/
theorem abs_natDiv_sub_le (a b : Nat) : |((a / b : Nat) : ℝ) - a / b| ≤ 1 := by
  have hle := Nat.cast_div_le (α := ℝ) (m := a) (n := b)
  have hlt := Nat.lt_floor_add_one ((a : ℝ) / b)
  rw [Nat.floor_div_eq_div] at hlt
  rw [abs_le]
  constructor <;> linarith

theorem taylorTail_le (z terms i : Nat) : taylorTail z terms i ≤ oneScaled := by
  cases terms with
  | zero => exact Nat.le_refl _
  | succ terms => exact Nat.sub_le _ _

theorem oneScaled_pos : (0 : ℝ) < oneScaled := by
  rw [oneScaled_cast]; positivity

theorem oneScaled_remainder : (oneScaled : ℝ) * (1 / 2 ^ 400) = 2 ^ 112 := by
  rw [oneScaled_cast, show 512 = 112 + 400 from rfl, pow_add, mul_assoc, mul_one_div_cancel (by positivity), mul_one]

/-- One level of the fixed-point evaluation against a value that is not negative: its argument is off by 1, the inner
levels by 4, and rounding down costs 1. -/
theorem level_near {one z tail d : Nat} {u t y : ℝ} (hone : (0 : ℝ) < one) (h0 : 0 ≤ u) (h4 : u ≤ 4)
    (hz : |(z : ℝ) - one * u| ≤ 1) (htail : tail ≤ one) (hnear : |(tail : ℝ) - one * t| ≤ 4) (hd : 0 < d)
    (hy : 0 ≤ y) : |((one - z * tail / (one * d) : Nat) : ℝ) - one * y| ≤
      1 + 17 / d + one * |1 - u * t / d - y| := by
  have hd' : (0 : ℝ) < d := by exact_mod_cast hd
  have htail1 : (tail : ℝ) / one ≤ 1 := (div_le_one hone).mpr (by exact_mod_cast htail)
  have hprod : |(z - one * u) * (tail / one) + u * (tail - one * t)| ≤ 17 := by
    calc |(z - one * u) * (tail / one) + u * (tail - one * t)|
        ≤ |(z : ℝ) - one * u| * (tail / one) + u * |(tail : ℝ) - one * t| := by
          refine (abs_add_le _ _).trans_eq ?_
          rw [abs_mul, abs_mul, abs_of_nonneg h0, abs_of_nonneg (a := (tail : ℝ) / one) (by positivity)]
      _ ≤ 1 * 1 + 4 * 4 := by gcongr
      _ = 17 := by norm_num
  have hdiv := abs_natDiv_sub_le (z * tail) (one * d)
  push_cast at hdiv
  have hsplit : (one : ℝ) - (z * tail / (one * d) : Nat) - one * y =
      -(((z * tail / (one * d) : Nat) : ℝ) - z * tail / (one * d)) -
        ((z - one * u) * (tail / one) + u * (tail - one * t)) / d + one * (1 - u * t / d - y) := by
    field_simp; ring
  calc |((one - z * tail / (one * d) : Nat) : ℝ) - one * y|
      ≤ |(one : ℝ) - (z * tail / (one * d) : Nat) - one * y| := abs_natSub_sub_le _ _ (by positivity)
    _ ≤ |((z * tail / (one * d) : Nat) : ℝ) - z * tail / (one * d)| +
          |(z - one * u) * (tail / one) + u * (tail - one * t)| / d + one * |1 - u * t / d - y| := by
        rw [hsplit]
        refine (abs_add_le _ _).trans (add_le_add ((abs_sub _ _).trans_eq ?_) (le_of_eq ?_))
        · rw [abs_neg, abs_div, abs_of_pos hd']
        · rw [abs_mul, abs_of_pos hone]
    _ ≤ 1 + 17 / d + one * |1 - u * t / d - y| := by gcongr

/-- From the second level on, the fixed-point evaluation is within 4 of the real one. -/
theorem taylorTail_near {z : Nat} {u : ℝ} (h0 : 0 ≤ u) (h4 : u ≤ 4) (hz : |(z : ℝ) - oneScaled * u| ≤ 1)
    (terms : Nat) {i : Nat} (hi : 2 ≤ i) :
    |(taylorTail z terms i : ℝ) - oneScaled * taylorReal u terms i| ≤ 4 := by
  induction terms generalizing i with
  | zero =>
    rw [taylorTail, taylorReal, mul_one, sub_self, abs_zero]
    norm_num
  | succ terms ih =>
    have hlevel := six_le_level hi
    have hstep := level_near oneScaled_pos h0 h4 hz (taylorTail_le z terms (i + 2)) (ih (by omega))
      (d := i * (i + 1)) (by positivity) (taylorReal_mem_unit h0 h4 (terms + 1) hi).1
    push_cast at hstep
    rw [taylorReal, sub_self, abs_zero, mul_zero, add_zero] at hstep
    have : (17 : ℝ) / (i * (i + 1)) ≤ 17 / 6 := by gcongr
    rw [taylorTail, taylorReal]
    linarith

/-! ### The sine and the cosine of an argument in the first quadrant -/

/-- The real number that a count of 2^-512 stands for. -/
noncomputable def ofScaled (r : Nat) : ℝ := r / oneScaled

theorem squareScaled_near (r : Nat) : |(squareScaled r : ℝ) - oneScaled * ofScaled r ^ 2| ≤ 1 := by
  have hone := oneScaled_pos
  have hdiv := abs_natDiv_sub_le (r * r) oneScaled
  have hsq : oneScaled * ofScaled r ^ 2 = ((r * r : Nat) : ℝ) / oneScaled := by
    rw [ofScaled]; push_cast; field_simp
  rwa [squareScaled, hsq]

theorem ofScaled_nonneg (r : Nat) : 0 ≤ ofScaled r := div_nonneg r.cast_nonneg oneScaled_pos.le

section FirstQuadrant

variable {r : Nat} (h2 : ofScaled r ≤ 2)
include h2

theorem sinScaled_near : |(sinScaled r : ℝ) - oneScaled * sin (ofScaled r)| ≤ 2 ^ 130 := by
  have hone := oneScaled_pos
  have h0 := ofScaled_nonneg r
  have hu : ofScaled r ^ 2 ≤ 4 := by nlinarith
  have htail := taylorTail_near (sq_nonneg _) hu (squareScaled_near r) 48 (le_refl 2)
  have hremainder := (taylorReal_near h0 h2).2
  have hdiv := abs_natDiv_sub_le (r * taylorTail (squareScaled r) 48 2) oneScaled
  rw [← sinScaled] at hdiv
  set tail := taylorTail (squareScaled r) 48 2
  set t := taylorReal (ofScaled r ^ 2) 48 2
  have hsplit : (sinScaled r : ℝ) - oneScaled * sin (ofScaled r) =
      ((sinScaled r : ℝ) - (r * tail : Nat) / oneScaled) + ofScaled r * (tail - oneScaled * t) -
        oneScaled * (sin (ofScaled r) - ofScaled r * t) := by
    rw [ofScaled]; push_cast; field_simp; ring
  calc |(sinScaled r : ℝ) - oneScaled * sin (ofScaled r)|
      ≤ |(sinScaled r : ℝ) - (r * tail : Nat) / oneScaled| + ofScaled r * |tail - oneScaled * t| +
          oneScaled * |sin (ofScaled r) - ofScaled r * t| := by
        rw [hsplit]
        refine (abs_sub _ _).trans (add_le_add ((abs_add_le _ _).trans_eq ?_) (le_of_eq ?_))
        · rw [abs_mul, abs_of_nonneg h0]
        · rw [abs_mul, abs_of_pos hone]
    _ ≤ 1 + 2 * 4 + oneScaled * (1 / 2 ^ 400) :=
        add_le_add (add_le_add hdiv (mul_le_mul h2 htail (abs_nonneg _) two_pos.le))
          (mul_le_mul_of_nonneg_left hremainder hone.le)
    _ ≤ 2 ^ 130 := by rw [oneScaled_remainder]; norm_num

theorem cosScaled_near (hcos : 0 ≤ cos (ofScaled r)) :
    |(cosScaled r : ℝ) - oneScaled * cos (ofScaled r)| ≤ 2 ^ 130 := by
  have hu : ofScaled r ^ 2 ≤ 4 := by nlinarith [ofScaled_nonneg r]
  have htail := taylorTail_near (sq_nonneg _) hu (squareScaled_near r) 47 (i := 1 + 2) (by norm_num)
  have hlevel := level_near oneScaled_pos (sq_nonneg _) hu (squareScaled_near r) (taylorTail_le _ 47 (1 + 2)) htail
    (d := 1 * (1 + 1)) (by norm_num) hcos
  have hremainder := (taylorReal_near (ofScaled_nonneg r) h2).1
  rw [abs_sub_comm, taylorReal, ← Nat.cast_succ, ← Nat.cast_mul] at hremainder
  rw [cosScaled, taylorTail]
  calc _ ≤ 1 + 17 / ((1 * (1 + 1) : Nat) : ℝ) + oneScaled * (1 / 2 ^ 400) :=
        hlevel.trans (add_le_add_right (mul_le_mul_of_nonneg_left hremainder oneScaled_pos.le) _)
    _ ≤ 2 ^ 130 := by rw [oneScaled_remainder]; norm_num

end FirstQuadrant

end Sys2Proof.Machine
end

section
/-! The reduction by π/2 and the enclosure of the sine (spec/41_oscillator_bank.md R120; log entry 1). -/

namespace Sys2Proof.Machine

open Real

/-! ### The reduction -/

/-- A sign as a real factor. -/
noncomputable def signFactor (neg : Bool) : ℝ := if neg then -1 else 1

theorem signFactor_mul_self (neg : Bool) : signFactor neg * signFactor neg = 1 := by
  cases neg <;> simp [signFactor]

theorem signFactor_xor (s t : Bool) : signFactor (s ^^ t) = signFactor s * signFactor t := by
  cases s <;> cases t <;> simp [signFactor]

theorem abs_signFactor_mul (neg : Bool) (y : ℝ) : |signFactor neg * y| = |y| := by
  cases neg <;> simp [signFactor]

theorem signedUnits_cast (neg : Bool) (m : Nat) : (signedUnits neg m 0 : ℝ) = signFactor neg * m := by
  cases neg <;> simp [signedUnits, signFactor]

/-- What remains of the argument past the whole π/2's, exactly. -/
noncomputable def exactRest (n : Nat) : ℝ := n / 2 ^ 149 - quadrant n * (π / 2)

theorem quadrant_le {n : Nat} (hn : n < 2 ^ 277) : quadrant n ≤ 2 ^ 128 := by
  have hpi : 2 ^ 277 * 2 ^ 364 ≤ piScaled * 2 ^ 128 := by decide +kernel
  exact Nat.div_le_of_le_mul ((Nat.mul_le_mul_right _ hn.le).trans hpi)

theorem argument_scaled (n : Nat) : ((n * 2 ^ 364 : Nat) : ℝ) = 2 * oneScaled * (n / 2 ^ 149) := by
  have hone : (oneScaled : ℝ) = 2 ^ 363 * 2 ^ 149 := by rw [oneScaled_cast, ← pow_add]
  rw [hone, Nat.cast_mul, Nat.cast_pow, Nat.cast_ofNat, show 364 = 363 + 1 from rfl, pow_succ]
  have hne : (2 : ℝ) ^ 149 ≠ 0 := by positivity
  generalize (2 : ℝ) ^ 363 = a
  field_simp

/-- The argument has at most 2^128 whole π/2's, so an error of 2^-512 in π moves the rest by less than 2^-384. -/
theorem reduced_near {n : Nat} (hn : n < 2 ^ 277) : oneScaled * |exactRest n - ofScaled (reduced n)| ≤ 2 ^ 128 := by
  obtain ⟨hpi, hpi'⟩ := piScaled_bounds
  rw [← oneScaled_cast] at hpi hpi'
  have hone := oneScaled_pos
  have hquadrant : (quadrant n : ℝ) ≤ 2 ^ 128 := by exact_mod_cast quadrant_le hn
  have hdivmod : (piScaled : ℝ) * quadrant n + (n * 2 ^ 364 % piScaled : Nat) = 2 * oneScaled * (n / 2 ^ 149) := by
    rw [← argument_scaled, quadrant, ← Nat.cast_mul, ← Nat.cast_add, Nat.div_add_mod]
  have hhalf := abs_natDiv_sub_le (n * 2 ^ 364 % piScaled) 2
  rw [← reduced] at hhalf
  generalize n * 2 ^ 364 % piScaled = rest at hdivmod hhalf
  have hsplit : oneScaled * (exactRest n - ofScaled (reduced n)) =
      -((reduced n : ℝ) - rest / (2 : Nat)) - quadrant n * ((π * oneScaled - piScaled) / 2) := by
    have hofScaled : oneScaled * ofScaled (reduced n) = reduced n := by
      rw [ofScaled]; field_simp
    rw [mul_sub, hofScaled, exactRest, Nat.cast_ofNat]
    linarith
  rw [← abs_of_pos hone, ← abs_mul, hsplit]
  refine (abs_sub _ _).trans ?_
  rw [abs_neg, abs_mul, abs_of_nonneg (a := (quadrant n : ℝ)) (by positivity), abs_of_nonneg (a := _ / 2) (by linarith)]
  calc _ ≤ 1 + 2 ^ 128 * (1 / 2) := by gcongr; linarith
    _ ≤ (2 : ℝ) ^ 128 := by norm_num

theorem ofScaled_reduced_le (n : Nat) : ofScaled (reduced n) ≤ π / 2 := by
  have hrest : 2 * reduced n ≤ piScaled :=
    (Nat.mul_div_le _ 2).trans (Nat.mod_lt _ (by decide +kernel : 0 < piScaled)).le
  have hrest' : 2 * (reduced n : ℝ) ≤ piScaled := by exact_mod_cast hrest
  obtain ⟨hpi, -⟩ := piScaled_bounds
  rw [← oneScaled_cast] at hpi
  rw [ofScaled, div_le_iff₀ oneScaled_pos]
  linarith

/-! ### The enclosure -/

theorem signFactor_quadrant (q : Nat) : signFactor (decide (2 ≤ q % 4)) = (-1) ^ (q / 2) := by
  rcases Nat.even_or_odd (q / 2) with h | h
  · have := Nat.even_iff.mp h
    rw [h.neg_one_pow, decide_eq_false (by omega)]; rfl
  · have := Nat.odd_iff.mp h
    rw [h.neg_one_pow, decide_eq_true (by omega)]; rfl

/-- The sine by the quadrant of its argument. -/
theorem signFactor_mul_sin (x : ℝ) (q : Nat) : signFactor (decide (2 ≤ q % 4)) * sin (x + q * (π / 2)) =
    if q % 2 = 0 then sin x else cos x := by
  have hq : (q : ℝ) = 2 * (q / 2 : Nat) + (q % 2 : Nat) := by exact_mod_cast (Nat.div_add_mod q 2).symm
  have hshift : x + q * (π / 2) = x + (q % 2 : Nat) * (π / 2) + (q / 2 : Nat) * π := by rw [hq]; ring
  rw [hshift, sin_add_nat_mul_pi, ← mul_assoc, ← signFactor_quadrant, signFactor_mul_self, one_mul]
  rcases Nat.mod_two_eq_zero_or_one q with h | h
  · simp [h]
  · simp [h, sin_add_pi_div_two]

theorem sineSlack_cast : (sineSlack : ℝ) = 2 ^ 132 := by norm_num [sineSlack]

/-- The model's magnitude is within the slack of the real sine, signed by the quadrant. -/
theorem absSine_near {n : Nat} (hn : n < 2 ^ 277) :
    |(absSine n : ℝ) - oneScaled * (signFactor (decide (2 ≤ quadrant n % 4)) * sin (n / 2 ^ 149))| ≤ sineSlack := by
  have hone := oneScaled_pos
  have hreduced := reduced_near hn
  have hle := ofScaled_reduced_le n
  have h2 : ofScaled (reduced n) ≤ 2 := by linarith [pi_le_four]
  have hcos : 0 ≤ cos (ofScaled (reduced n)) :=
    cos_nonneg_of_neg_pi_div_two_le_of_le (by linarith [ofScaled_nonneg (reduced n), pi_pos]) hle
  have harg : (n : ℝ) / 2 ^ 149 = exactRest n + quadrant n * (π / 2) := by rw [exactRest]; ring
  have hclose {approx : Nat} {f : ℝ → ℝ} (hf : ∀ x y, |f x - f y| ≤ |x - y|)
      (happrox : |(approx : ℝ) - oneScaled * f (ofScaled (reduced n))| ≤ 2 ^ 130) :
      |(approx : ℝ) - oneScaled * f (exactRest n)| ≤ sineSlack := by
    have hmove : |oneScaled * (f (exactRest n) - f (ofScaled (reduced n)))| ≤ 2 ^ 128 := by
      rw [abs_mul, abs_of_pos hone]
      exact (mul_le_mul_of_nonneg_left (hf _ _) hone.le).trans hreduced
    rw [show (approx : ℝ) - oneScaled * f (exactRest n) = approx - oneScaled * f (ofScaled (reduced n)) -
      oneScaled * (f (exactRest n) - f (ofScaled (reduced n))) by ring, sineSlack_cast]
    refine (abs_sub _ _).trans ?_
    linarith
  rw [harg, signFactor_mul_sin, absSine]
  split
  · exact hclose abs_sin_sub_sin_le (sinScaled_near h2)
  · exact hclose abs_cos_sub_cos_le (cosScaled_near h2 hcos)

/-- The sine's magnitude, on the grid, lies between the ends of the enclosure; where the lower end is not 0 the quadrant
gives the sine's sign. -/
theorem sine_enclosed {n : Nat} (hn : n < 2 ^ 277) :
    ((absSine n - sineSlack : Nat) : ℝ) ≤ oneScaled * |sin (n / 2 ^ 149)| ∧
    oneScaled * |sin (n / 2 ^ 149)| ≤ (min (absSine n + sineSlack) oneScaled : Nat) ∧
    (absSine n - sineSlack ≠ 0 → 0 ≤ signFactor (decide (2 ≤ quadrant n % 4)) * sin (n / 2 ^ 149)) := by
  have hone := oneScaled_pos
  obtain ⟨hlow, hhigh⟩ := abs_le.mp (absSine_near hn)
  rw [← abs_signFactor_mul (decide (2 ≤ quadrant n % 4)) (sin (n / 2 ^ 149))]
  have hunit : |signFactor (decide (2 ≤ quadrant n % 4)) * sin (n / 2 ^ 149)| ≤ 1 := by
    rw [abs_signFactor_mul]; exact abs_sin_le_one _
  generalize signFactor (decide (2 ≤ quadrant n % 4)) * sin (n / 2 ^ 149) = y at *
  have hle : oneScaled * y ≤ oneScaled * |y| := mul_le_mul_of_nonneg_left (le_abs_self y) hone.le
  refine ⟨?_, ?_, fun hne => ?_⟩
  · rcases Nat.le_total (absSine n) sineSlack with h | h
    · rw [Nat.sub_eq_zero_of_le h, Nat.cast_zero]
      exact mul_nonneg hone.le (abs_nonneg _)
    · rw [Nat.cast_sub h]
      linarith
  · rw [Nat.cast_min, le_min_iff, Nat.cast_add]
    refine ⟨?_, mul_le_of_le_one_right hone.le hunit⟩
    rw [← abs_of_pos hone, ← abs_mul, abs_le]
    have hnonneg : (0 : ℝ) ≤ absSine n := Nat.cast_nonneg _
    constructor <;> linarith
  · have hlt : (sineSlack : ℝ) < absSine n := by exact_mod_cast Nat.lt_of_sub_ne_zero hne
    exact le_of_mul_le_mul_left (by linarith) hone

theorem absSine_le {n : Nat} (hn : n < 2 ^ 277) : absSine n - sineSlack ≤ oneScaled := by
  obtain ⟨hlow, hhigh, -⟩ := sine_enclosed hn
  have hle := (hlow.trans hhigh).trans (Nat.cast_le.mpr (min_le_right _ _))
  exact Nat.cast_le.mp hle

theorem sineMag_le {n : Nat} (hn : n < 2 ^ 277) :
    sineLow n ≤ 0x3F800000 ∧ sineHigh n ≤ 0x3F800000 ∧ sineMag n ≤ 0x3F800000 := by
  have hone : roundScaled oneScaled = 0x3F800000 := by decide +kernel
  have hround {t : Nat} (h : t ≤ oneScaled) : roundScaled t ≤ 0x3F800000 := hone ▸ roundMag_mono h (by positivity)
  have hlow : sineLow n ≤ 0x3F800000 := hround (absSine_le hn)
  have hhigh : sineHigh n ≤ 0x3F800000 := hround (min_le_right _ _)
  refine ⟨hlow, hhigh, ?_⟩
  unfold sineMag
  split
  · exact hlow
  · split
    · exact hhigh
    · exact hlow

/-! ### The result -/

theorem natAbs_finiteUnits_lt {x : F32} {k : Int} (h : finiteUnits x = some k) : k.natAbs < 2 ^ 277 := by
  have hlt := abs_lt_infUnits h
  rw [infUnits, ← Int.natCast_natAbs, Int.ofNat_lt, magUnits_inf] at hlt
  rw [show 277 = 25 + 252 from rfl, pow_add]
  exact hlt

theorem sin32_eq {x : F32} {k : Int} (h : finiteUnits x = some k) : sin32 x =
    packSign (signBit x ^^ decide (2 ≤ quadrant k.natAbs % 4)) (sineMag k.natAbs) := by
  obtain ⟨m, e, hx, rfl⟩ := unpack_of_finiteUnits h
  rw [sin32, hx, natAbs_signedUnits]

theorem sin32_of_not_finite {x : F32} (h : isFinite x = false) : sin32 x = arithNan := by
  unfold sin32
  split
  · rfl
  · rfl
  · next hx => simp [isFinite, hx] at h

theorem fneg_packSign (neg : Bool) {mag : Nat} (h : mag ≤ 0x7F800000) :
    fneg (packSign neg mag) = packSign (!neg) mag := by
  rw [← packSign_signBit_magBits (fneg (packSign neg mag)), signBit_fneg, magBits_fneg, signBit_packSign h,
    magBits_packSign h]

/-- A finite argument gives a sign on a magnitude of at most 1.0, and the argument's sign is a factor of it. -/
theorem exists_sin32_eq_packSign {x : F32} (h : isFinite x = true) : ∃ neg mag, mag ≤ 0x3F800000 ∧
    sin32 x = packSign neg mag ∧ sin32 (fneg x) = packSign (!neg) mag := by
  obtain ⟨k, hk⟩ := exists_finiteUnits h
  refine ⟨_, _, (sineMag_le (natAbs_finiteUnits_lt hk)).2.2, sin32_eq hk, ?_⟩
  rw [sin32_eq (finiteUnits_fneg hk), Int.natAbs_neg, signBit_fneg, Bool.not_xor]

/-- Settles O59: NaN for what is not finite, else a sign on a magnitude of at most 1.0. -/
theorem sineMeetsItsFourProperties : Obligations.SineMeetsItsFourProperties := by
  refine ⟨by decide +kernel, by decide +kernel, fun x => ?_, fun x hx => ?_, fun x hx => ?_⟩
  · cases hx : isFinite x with
    | false => simp [sin32_of_not_finite hx, orderKey_eq_none_iff]
    | true =>
      obtain ⟨neg, mag, hmag, hsin, -⟩ := exists_sin32_eq_packSign hx
      simp [hsin, orderKey_packSign neg (hmag.trans (by norm_num))]
  · obtain ⟨neg, mag, hmag, hsin, -⟩ := exists_sin32_eq_packSign hx
    have hkey := orderKey_packSign neg (hmag.trans (by norm_num))
    have hone : orderKey 0x3F800000#32 = some (magUnits 0x3F800000 : Int) := by decide +kernel
    have hnegOne : orderKey 0xBF800000#32 = some (-magUnits 0x3F800000 : Int) := by decide +kernel
    rw [hsin, fge_eq hone hkey, fge_eq hkey hnegOne, decide_eq_true_iff, decide_eq_true_iff, and_comm, ← abs_le,
      abs_signedUnits, pow_zero, Nat.mul_one]
    exact Int.ofNat_le.mpr (magUnits_strictMono.monotone hmag)
  · obtain ⟨neg, mag, hmag, hsin, hodd⟩ := exists_sin32_eq_packSign hx
    rw [hsin, hodd, fneg_packSign neg (hmag.trans (by norm_num))]

/-! ### Nearest to the real sine -/

/-- A value that is no farther than another from both ends of an interval is so from every point of it. -/
theorem nearer_of_between {a b l h t : ℝ} (hl : |a - l| ≤ |b - l|) (hh : |a - h| ≤ |b - h|) (hlt : l ≤ t)
    (hth : t ≤ h) : |a - t| ≤ |b - t| := by
  rw [← sq_le_sq] at *
  rcases le_total a b with hab | hab <;> nlinarith

section Nearest

variable {neg : Bool} {den mag : Nat} {z : F32} {kz : Int} (hden : 0 < den) (hz : finiteUnits z = some kz)
include hden hz

/-- No finite value is nearer than the rounded magnitude to what was rounded, both taken with a sign. -/
theorem nearest_of_roundSteps {num : Nat} (hround : roundSteps num den = mag) :
    |(magUnits mag * den : ℝ) - num| ≤ |signFactor neg * kz * den - num| := by
  obtain ⟨hnear, -⟩ := signedUnits_nearest (mag := mag) neg num 0 hden (by rwa [pow_zero, Nat.mul_one]) hz
  rw [← Int.cast_le (R := ℝ), Int.cast_abs, Int.cast_abs] at hnear
  push_cast [signedUnits_cast] at hnear
  have hout (a : ℝ) : |a * den - signFactor neg * num| = |signFactor neg * a * den - num| := by
    rw [← abs_signFactor_mul neg (a * den - _)]
    congr 1
    linear_combination (-num : ℝ) * signFactor_mul_self neg
  rwa [hout, hout, ← mul_assoc, signFactor_mul_self, one_mul] at hnear

/-- Where both ends of an enclosure of a signed value round to one magnitude, that magnitude is nearest to it. -/
theorem nearest_of_enclosure {lo hi : Nat} (hlo : roundSteps lo den = mag) (hhi : roundSteps hi den = mag) {y : ℝ}
    (hlow : (lo : ℝ) ≤ den * (signFactor neg * y)) (hhigh : den * (signFactor neg * y) ≤ hi) :
    |((signedUnits neg (magUnits mag) 0 : Int) : ℝ) - y| ≤ |(kz : ℝ) - y| := by
  have hden' : (0 : ℝ) < den := by exact_mod_cast hden
  have hnear := nearer_of_between (nearest_of_roundSteps (neg := neg) hden hz hlo)
    (nearest_of_roundSteps hden hz hhi) hlow hhigh
  have hout (a : ℝ) : |signFactor neg * a * den - den * (signFactor neg * y)| = den * |a - y| := by
    rw [← abs_of_pos hden', ← abs_mul, ← abs_signFactor_mul neg (den * (a - y)), abs_of_pos hden']
    congr 1
    ring
  rw [hout, show (magUnits mag * den : ℝ) = signFactor neg * (signFactor neg * magUnits mag) * den by
    rw [← mul_assoc, signFactor_mul_self, one_mul], hout] at hnear
  rw [signedUnits_cast]
  exact le_of_mul_le_mul_left hnear hden'

/-- The same for an enclosure of the magnitude alone, if the sign is right where it matters: where the lower end is 0
the rounded magnitude is 0. -/
theorem nearest_of_magnitude_enclosure {lo hi : Nat} (hlo : roundSteps lo den = mag) (hhi : roundSteps hi den = mag)
    {y : ℝ} (hlow : (lo : ℝ) ≤ den * |y|) (hhigh : den * |y| ≤ hi) (hsign : lo ≠ 0 → 0 ≤ signFactor neg * y) :
    |((signedUnits neg (magUnits mag) 0 : Int) : ℝ) - y| ≤ |(kz : ℝ) - y| := by
  have hfits {neg : Bool} (hpos : 0 ≤ signFactor neg * y) :
      |((signedUnits neg (magUnits mag) 0 : Int) : ℝ) - y| ≤ |(kz : ℝ) - y| := by
    rw [← abs_signFactor_mul neg, abs_of_nonneg hpos] at hlow hhigh
    exact nearest_of_enclosure hden hz hlo hhi hlow hhigh
  by_cases hpos : 0 ≤ signFactor neg * y
  · exact hfits hpos
  · obtain rfl : lo = 0 := of_not_not (mt hsign hpos)
    have hmag : mag = 0 := by
      have hzero := roundMag_zero den
      rw [roundMag_eq_min, hlo] at hzero
      omega
    have hother : 0 ≤ signFactor (!neg) * y := by
      cases neg <;> simp [signFactor] at hpos ⊢ <;> exact hpos.le
    simpa [hmag, signedUnits] using hfits hother

end Nearest

theorem cast_finiteUnits {x : F32} {k : Int} (h : finiteUnits x = some k) :
    (k : ℝ) = signFactor (signBit x) * k.natAbs := by
  obtain ⟨m, e, -, rfl⟩ := unpack_of_finiteUnits h
  rw [natAbs_signedUnits, ← signedUnits_cast, signedUnits_congr _ (pow_zero 2 ▸ (Nat.mul_one _).symm)]

theorem sin_of_finiteUnits {x : F32} {k : Int} (h : finiteUnits x = some k) :
    sin (k / 2 ^ 149) = signFactor (signBit x) * sin (k.natAbs / 2 ^ 149) := by
  rw [cast_finiteUnits h]
  cases signBit x <;> simp [signFactor, neg_div]

/-- Settles O60: the quadrant's sign and the enclosed magnitude round to a nearest value. -/
theorem sineIsCorrectlyRounded : Obligations.SineIsCorrectlyRounded := by
  intro x kx hx hdecides
  have hlt := natAbs_finiteUnits_lt hx
  obtain ⟨hlow, hhigh, hsign⟩ := sine_enclosed hlt
  obtain ⟨hlowMag, -, -⟩ := sineMag_le hlt
  have hsin := sin_of_finiteUnits hx
  set n := kx.natAbs
  set neg := signBit x ^^ decide (2 ≤ quadrant n % 4)
  have hresult : sin32 x = packSign neg (sineLow n) := by rw [sin32_eq hx, sineMag, if_pos hdecides]
  refine ⟨_, by rw [hresult, finiteUnits_packSign neg (hlowMag.trans_lt (by norm_num))], fun z kz hz => ?_⟩
  have hsteps {t : Nat} (h : roundScaled t = sineLow n) : roundSteps t (2 ^ 363) = sineLow n := by
    rw [roundScaled, roundMag_eq_min] at h
    omega
  have hscale : (oneScaled : ℝ) * |sin (n / 2 ^ 149)| = (2 ^ 363 : Nat) * |2 ^ 149 * sin (kx / 2 ^ 149)| := by
    rw [hsin, abs_mul, abs_signFactor_mul, abs_of_pos (by positivity : (0 : ℝ) < 2 ^ 149), oneScaled_cast, Nat.cast_pow,
      Nat.cast_ofNat, ← mul_assoc, ← pow_add]
  rw [hscale] at hlow hhigh
  have hnear := nearest_of_magnitude_enclosure (neg := neg) (by positivity) hz (hsteps rfl) (hsteps hdecides.symm) hlow
    hhigh fun hne => by
      rw [hsin, mul_left_comm, signFactor_xor, mul_mul_mul_comm, signFactor_mul_self, one_mul]
      exact mul_nonneg (by positivity) (hsign hne)
  have hout (a : ℝ) : |a / 2 ^ 149 - sin (kx / 2 ^ 149)| = |a - 2 ^ 149 * sin (kx / 2 ^ 149)| / 2 ^ 149 := by
    rw [div_sub' (by positivity), abs_div, abs_of_pos (by positivity : (0 : ℝ) < 2 ^ 149)]
  rw [hout, hout]
  gcongr

end Sys2Proof.Machine
end

section
/-! The order of binary32 results: a value rounds to itself, an integer below 2^24 converts to itself, and what a sum, a
difference or a quotient between 0 and 1 rounds to (spec/00_scope.md R9, G1). -/

namespace Sys2Proof.Machine

/-! ### A value that is exact -/

theorem roundSteps_magUnits_mul (mag : Nat) {den : Nat} (hden : 0 < den) :
    roundSteps (magUnits mag * den) den = mag := by
  obtain ⟨hnear, -⟩ := roundSteps_nearest (magUnits mag * den) hden mag
  have hunits : magUnits (roundSteps (magUnits mag * den) den) * den = magUnits mag * den := by
    unfold magError at hnear
    omega
  exact magUnits_strictMono.injective (Nat.eq_of_mul_eq_mul_right hden hunits)

/-- A value that is one of the magnitudes rounds to it. -/
theorem roundMag_magUnits_mul {mag den : Nat} (hmag : mag ≤ 0x7F800000) (hden : 0 < den) :
    roundMag (magUnits mag * den) den = mag := by
  rw [roundMag_eq_min, roundSteps_magUnits_mul mag hden, min_eq_left hmag]

/-- A magnitude above the least is at most half below the next. -/
theorem magUnits_succ_le {mag : Nat} (h : mag ≠ 0) : magUnits (mag + 1) ≤ 2 * magUnits mag := by
  obtain ⟨e, q, rfl, hlow, hhigh, hpos⟩ :
      ∃ e q, mag = e * 2 ^ 23 + q ∧ (e = 0 ∨ 2 ^ 23 ≤ q) ∧ q < 2 ^ 24 ∧ 1 ≤ q :=
    ⟨mag / 2 ^ 23 - 1, mag - (mag / 2 ^ 23 - 1) * 2 ^ 23, by omega, by omega, by omega, by omega⟩
  rw [Nat.add_assoc, magUnits_binade hlow hhigh.le, magUnits_binade (by omega) hhigh, ← Nat.mul_assoc]
  exact Nat.mul_le_mul_right _ (by omega)

theorem magUnits_fOne : magUnits 0x3F800000 = 2 ^ 149 := by decide

/-- A quotient of at most one rounds to at most 1.0. -/
theorem roundMag_le_one {num den : Nat} (hden : 0 < den) (h : num ≤ 2 ^ 149 * den) :
    roundMag num den ≤ 0x3F800000 := by
  rw [← magUnits_fOne] at h
  exact (roundMag_mono h hden).trans_eq (roundMag_magUnits_mul (by norm_num) hden)

theorem finiteUnits_fOne : finiteUnits fOne = some (2 ^ 149) := by decide

theorem finiteUnits_fZero : finiteUnits fZero = some 0 := by decide

theorem finiteUnits_zeroOf (neg : Bool) : finiteUnits (zeroOf neg) = some 0 := by cases neg <;> decide

@[simp] theorem signBit_zeroOf (neg : Bool) : signBit (zeroOf neg) = neg := by cases neg <;> decide

theorem finiteUnits_magBits {x : F32} {k : Int} (h : finiteUnits x = some k) :
    magBits x < 0x7F800000 ∧ k = signedUnits (signBit x) (magUnits (magBits x)) 0 := by
  rw [finiteUnits_eq] at h
  split_ifs at h with hmag
  exact ⟨hmag, (Option.some_inj.mp h).symm⟩

theorem finiteUnits_positive {mag : Nat} (h : mag < 0x7F800000) :
    finiteUnits (packSign false mag) = some (magUnits mag : Int) := by
  simpa [signedUnits] using finiteUnits_packSign false h

/-- Every value is NaN, an infinity or finite. -/
theorem value_cases (x : F32) : isNanPattern x ∨ (∃ neg, x = infOf neg) ∨ ∃ k, finiteUnits x = some k := by
  cases hx : isFinite x with
  | false => exact ((isFinite_eq_false_iff x).mp hx).imp_right .inl
  | true => exact .inr (.inr (exists_finiteUnits hx))

theorem fmul_fOne {x : F32} (h : orderKey x ≠ none) : fmul x fOne = x := by
  obtain hnan | ⟨neg, rfl⟩ | ⟨k, hk⟩ := value_cases x
  · exact absurd ((orderKey_eq_none_iff x).mpr (unpack_of_isNanPattern hnan)) h
  · cases neg <;> decide
  · obtain ⟨hmag, rfl⟩ := finiteUnits_magBits hk
    rw [fmul_eq_packSign hk finiteUnits_fOne, natAbs_signedUnits, pow_zero, Nat.mul_one]
    refine Eq.trans ?_ (packSign_signBit_magBits x)
    congr 1
    · simp [signBit, fOne]
    · exact roundMag_magUnits_mul hmag.le (by positivity)

/-! ### Products and quotients with positive signs -/

section PositiveOperands

variable {a b : F32} {m n : Nat} (ha : finiteUnits a = some (m : Int)) (hb : finiteUnits b = some (n : Int))
  (hsa : signBit a = false) (hsb : signBit b = false)
include ha hb hsa hsb

theorem fmul_eq_positive : fmul a b = packSign false (roundMag (m * n) (2 ^ 149)) := by
  rw [fmul_eq_packSign ha hb, hsa, hsb, Bool.xor_false, Int.natAbs_natCast, Int.natAbs_natCast]

theorem fdiv_eq_positive (hn : 0 < n) : fdiv a b = packSign false (roundMag (m * 2 ^ 149) n) := by
  rw [fdiv_eq_packSign ha hb (Int.natCast_ne_zero.mpr hn.ne'), hsa, hsb, Bool.xor_false, Int.natAbs_natCast,
    Int.natAbs_natCast]

end PositiveOperands

/-! ### Zeros in arithmetic -/

theorem fsub_eq_roundSum {a b : F32} {ka kb : Int} (ha : finiteUnits a = some ka) (hb : finiteUnits b = some kb) :
    fsub a b = roundSum (ka - kb) (signBit a && !signBit b) := by
  rw [fsub, fadd_eq_roundSum ha (finiteUnits_fneg hb), signBit_fneg, Int.sub_eq_add_neg]

theorem fsub_zeroOf {x : F32} {k : Int} (hx : finiteUnits x = some k) (hk : k ≠ 0) (neg : Bool) :
    fsub x (zeroOf neg) = x := by
  obtain ⟨hmag, hunits⟩ := finiteUnits_magBits hx
  rw [fsub_eq_roundSum hx (finiteUnits_zeroOf neg), sub_zero, roundSum, if_neg hk]
  have hsign : decide (k < 0) = signBit x := by
    rw [hunits] at hk ⊢
    cases signBit x <;> simp [signedUnits] at hk ⊢
    omega
  have hround := roundMag_magUnits_mul hmag.le Nat.one_pos
  rw [hsign, hunits, natAbs_signedUnits, pow_zero, hround, packSign_signBit_magBits]

theorem fmul_zeroOf {x : F32} {k : Int} (hx : finiteUnits x = some k) (neg : Bool) :
    fmul x (zeroOf neg) = zeroOf (signBit x ^^ neg) := by
  rw [fmul_eq_packSign hx (finiteUnits_zeroOf neg), signBit_zeroOf, Int.natAbs_zero, Nat.mul_zero, roundMag_zero,
    packSign_zero]

theorem zeroOf_fdiv {x : F32} {k : Int} (hx : finiteUnits x = some k) (hk : k ≠ 0) (neg : Bool) :
    fdiv (zeroOf neg) x = zeroOf (neg ^^ signBit x) := by
  rw [fdiv_eq_packSign (finiteUnits_zeroOf neg) hx hk, signBit_zeroOf, Int.natAbs_zero, Nat.zero_mul, roundMag_zero,
    packSign_zero]

/-! ### Converted integers -/

theorem cvt32_zero : cvt32 0 = fZero := by decide

@[simp] theorem signBit_cvt32 (n : Nat) : signBit (cvt32 n) = false := (cvt32_roundsTo n).2

/-- What a conversion is worth: the rounded integer. -/
def cvtUnits (n : Nat) : Nat := magUnits (roundMag (n * 2 ^ 149) 1)

theorem cvtUnits_mono : Monotone cvtUnits := fun _ _ h =>
  magUnits_strictMono.monotone (roundMag_mono (by gcongr) Nat.one_pos)

theorem cvtUnits_pos {n : Nat} (h : n ≠ 0) : 0 < cvtUnits n :=
  magUnits_strictMono (Nat.pos_of_ne_zero (roundMag_one_ne_zero (by positivity)))

/-- A conversion overflows, or it is worth the rounded integer. -/
theorem cvt32_cases (n : Nat) : cvt32 n = infOf false ∨ finiteUnits (cvt32 n) = some (cvtUnits n : Int) := by
  rcases (roundMag_le (n * 2 ^ 149) 1).eq_or_lt with heq | hlt
  · exact .inl (by rw [cvt32, heq, packSign_inf])
  · exact .inr (finiteUnits_positive hlt)

theorem finiteUnits_cvt32_of_lt {n : Nat} (h : n < 2 ^ 32) : finiteUnits (cvt32 n) = some (cvtUnits n : Int) := by
  refine finiteUnits_positive ?_
  rw [roundMag_eq_min, min_lt_iff, roundSteps_lt_inf_iff _ Nat.one_pos]
  omega

theorem finiteUnits_cvt32_word (w : Word) : finiteUnits (cvt32 w.toNat) = some (cvtUnits w.toNat : Int) :=
  finiteUnits_cvt32_of_lt w.isLt

theorem toNat_pos_of_ne {w : Word} (h : w ≠ 0#32) : 0 < w.toNat :=
  Nat.pos_of_ne_zero fun hzero => h (BitVec.eq_of_toNat_eq hzero)

theorem cvtUnits_word_pos {w : Word} (h : w ≠ 0#32) : 0 < cvtUnits w.toNat :=
  cvtUnits_pos (toNat_pos_of_ne h).ne'

theorem zeroOf_fdiv_cvt32 {w : Word} (h : w ≠ 0#32) (neg : Bool) :
    fdiv (zeroOf neg) (cvt32 w.toNat) = zeroOf neg := by
  have hne : (cvtUnits w.toNat : Int) ≠ 0 := Int.natCast_ne_zero.mpr (cvtUnits_word_pos h).ne'
  rw [zeroOf_fdiv (finiteUnits_cvt32_word w) hne, signBit_cvt32, Bool.xor_false]

theorem cvt32_zero_fdiv_cvt32 {w : Word} (h : w ≠ 0#32) : fdiv (cvt32 0) (cvt32 w.toNat) = fZero := by
  rw [cvt32_zero]
  exact zeroOf_fdiv_cvt32 h false

/-- An integer below 2^24 is one of the magnitudes: shifted up to 24 bits it is a significand. -/
theorem exists_magUnits_eq {n : Nat} (h : n < 2 ^ 24) : ∃ mag ≤ 0x7F800000, magUnits mag = n * 2 ^ 149 := by
  rcases Nat.eq_zero_or_pos n with rfl | hpos
  · exact ⟨0, by norm_num, by simp⟩
  have hlog : Nat.log2 n ≤ 23 := Nat.lt_succ_iff.mp ((Nat.log2_lt hpos.ne').mpr h)
  obtain ⟨j, hj⟩ := Nat.exists_eq_add_of_le hlog
  have hlow : 2 ^ 23 ≤ n * 2 ^ j := by
    rw [hj, pow_add]
    exact Nat.mul_le_mul_right _ (Nat.log2_self_le hpos.ne')
  have hhigh : n * 2 ^ j ≤ 2 ^ 24 :=
    calc n * 2 ^ j ≤ 2 ^ (n.log2 + 1) * 2 ^ j := Nat.mul_le_mul_right _ Nat.lt_log2_self.le
      _ = 2 ^ 24 := by rw [← pow_add]; congr 1; omega
  refine ⟨(149 - j) * 2 ^ 23 + n * 2 ^ j, by omega, ?_⟩
  rw [magUnits_binade (.inr hlow) hhigh, Nat.mul_assoc, ← pow_add]
  congr 2
  omega

/-- An integer below 2^24 converts exactly. -/
theorem cvtUnits_of_lt {n : Nat} (h : n < 2 ^ 24) : cvtUnits n = n * 2 ^ 149 := by
  obtain ⟨mag, hmag, hunits⟩ := exists_magUnits_eq h
  have hround := roundMag_magUnits_mul hmag Nat.one_pos
  rw [Nat.mul_one, hunits] at hround
  rw [cvtUnits, hround, hunits]

/-! ### Results between 0 and 1 -/

/-- A value from +0.0 to 1.0, its sign positive. -/
def UnitValue (x : F32) : Prop := ∃ mag ≤ 0x3F800000, x = packSign false mag

theorem UnitValue.exists_units {x : F32} (h : UnitValue x) :
    signBit x = false ∧ ∃ k : Nat, k ≤ 2 ^ 149 ∧ finiteUnits x = some (k : Int) := by
  obtain ⟨mag, hmag, rfl⟩ := h
  have hle := magUnits_strictMono.monotone hmag
  rw [magUnits_fOne] at hle
  exact ⟨signBit_packSign (by omega), _, hle, finiteUnits_positive (by omega)⟩

theorem UnitValue.bounds {x : F32} (h : UnitValue x) : fge x fZero = true ∧ fge fOne x = true := by
  obtain ⟨-, k, hle, hk⟩ := h.exists_units
  rw [(finite_compare hk finiteUnits_fZero).1, (finite_compare finiteUnits_fOne hk).1]
  exact ⟨Int.natCast_nonneg k, by exact_mod_cast hle⟩

theorem unitValue_fmul {a b : F32} (ha : UnitValue a) (hb : UnitValue b) : UnitValue (fmul a b) := by
  obtain ⟨hsa, ka, hka, ha⟩ := ha.exists_units
  obtain ⟨hsb, kb, hkb, hb⟩ := hb.exists_units
  exact ⟨_, roundMag_le_one (by positivity) (Nat.mul_le_mul hka hkb), fmul_eq_positive ha hb hsa hsb⟩

theorem unitValue_fdiv_cvt32 {n : Nat} {w : Word} (hw : w ≠ 0#32) (h : n ≤ w.toNat) :
    UnitValue (fdiv (cvt32 n) (cvt32 w.toNat)) := by
  have hpos := cvtUnits_word_pos hw
  have hle := cvtUnits_mono h
  have hn := finiteUnits_cvt32_of_lt (h.trans_lt w.isLt)
  exact ⟨_, roundMag_le_one hpos ((Nat.mul_comm _ _).trans_le (Nat.mul_le_mul_left _ hle)),
    fdiv_eq_positive hn (finiteUnits_cvt32_word w) (signBit_cvt32 n) (signBit_cvt32 _) hpos⟩

theorem unitValue_roundSum {n : Int} {bothNeg : Bool} (hlow : 0 ≤ n) (hzero : n = 0 → bothNeg = false)
    (hhigh : n ≤ 2 ^ 149) : UnitValue (roundSum n bothNeg) := by
  rcases hlow.eq_or_lt with rfl | hpos
  · exact ⟨0, by norm_num, by simp [roundSum, hzero, signedZero]⟩
  · refine ⟨_, roundMag_le_one Nat.one_pos (num := n.natAbs) (by omega), ?_⟩
    rw [roundSum, if_neg hpos.ne', decide_eq_false hpos.not_gt]

/-- The distance from 1.0 of a value between 0 and 1. -/
theorem unitValue_fsub_fOne {x : F32} {k : Int} (hx : finiteUnits x = some k) (hlow : 0 ≤ k) (hhigh : k ≤ 2 ^ 149) :
    UnitValue (fsub fOne x) := by
  rw [fsub_eq_roundSum finiteUnits_fOne hx]
  exact unitValue_roundSum (by omega) (fun _ => by simp [signBit, fOne]) (by omega)

/-- The distance from 1.0 of any finite value is finite: 1.0 is below half a step of the largest. -/
theorem exists_finiteUnits_fsub_fOne {x : F32} {k : Int} (hx : finiteUnits x = some k) :
    ∃ d, finiteUnits (fsub fOne x) = some d := by
  obtain ⟨hmag, hk⟩ := finiteUnits_magBits hx
  have habs : |k| ≤ ((2 ^ 25 - 2) * 2 ^ 252 : Nat) := by
    rw [hk, abs_signedUnits, pow_zero, Nat.mul_one, ← magUnits_max]
    exact Int.ofNat_le.mpr (magUnits_strictMono.monotone (Nat.le_of_lt_succ hmag))
  have hsum : |2 ^ 149 - k| < overflowUnits * |1| := by
    rw [abs_one, mul_one, overflowUnits]
    rw [abs_le] at habs
    rw [abs_lt]
    omega
  obtain ⟨d, hd, -⟩ := (if_pos hsum).mp (roundsTo_roundSum (2 ^ 149 - k) (signBit fOne && !signBit x))
  exact ⟨d, fsub_eq_roundSum finiteUnits_fOne hx ▸ hd⟩

/-! ### The sign of a difference -/

theorem isNanPattern_fsub {a b : F32} (h : isNanPattern a ∨ isNanPattern b) : isNanPattern (fsub a b) :=
  have ⟨_, hsub, _⟩ := nan_propagates h
  hsub

theorem fge_nan_eq_false {a b : F32} (h : isNanPattern a ∨ isNanPattern b) : fge a b = false :=
  have ⟨_, _, _, _, hge, _⟩ := nan_propagates h
  hge

theorem fgt_nan_eq_false {a b : F32} (h : isNanPattern a ∨ isNanPattern b) : fgt a b = false :=
  have ⟨_, _, _, _, _, hgt⟩ := nan_propagates h
  hgt

theorem fgt_infOf_eq_false (x : F32) : fgt x (infOf false) = false := by
  obtain hnan | ⟨neg, rfl⟩ | ⟨k, hk⟩ := value_cases x
  · exact fgt_nan_eq_false (.inl hnan)
  · simp [inf_compare]
  · obtain ⟨-, -, -, hgt⟩ := inf_compare_finite false hk
    exact hgt

theorem fgt_infOf_fZero (neg : Bool) : fgt (infOf neg) fZero = !neg := by cases neg <;> decide

theorem pos_of_fgt_roundSum {n : Int} {bothNeg : Bool} (h : fgt (roundSum n bothNeg) fZero = true) : 0 < n := by
  by_contra hn
  rcases (Int.not_lt.mp hn).eq_or_lt with rfl | hneg
  · rw [roundSum_of_eq_zero rfl, (finite_compare (finiteUnits_zeroOf _) finiteUnits_fZero).2] at h
    exact h.false
  · rw [roundSum, if_neg hneg.ne, fgt_eq (orderKey_packSign _ (roundMag_le _ _))
      (orderKey_of_finiteUnits finiteUnits_fZero)] at h
    simp [signedUnits, hneg] at h
    omega

/-- A difference above zero has its operands in that order, infinities included. -/
theorem fgt_of_fgt_fsub {a b : F32} (h : fgt (fsub a b) fZero = true) : fgt a b = true := by
  have hofNan (hsub : isNanPattern (fsub a b)) : fgt a b = true := by simp [fgt_nan_eq_false (.inl hsub)] at h
  obtain hnan | ⟨s, rfl⟩ | ⟨ka, ha⟩ := value_cases a
  · exact hofNan (isNanPattern_fsub (.inl hnan))
  all_goals obtain hnan | ⟨t, rfl⟩ | ⟨kb, hb⟩ := value_cases b
  · exact hofNan (isNanPattern_fsub (.inr hnan))
  · obtain ⟨-, hsub, -, -, -, hgt⟩ := inf_with_inf s t
    split at hsub
    · exact hofNan hsub
    · rw [hsub, fgt_infOf_fZero] at h
      simp_all
  · obtain ⟨-, -, hsub, -⟩ := inf_with_finite s hb
    obtain ⟨-, hgt, -⟩ := inf_compare_finite s hb
    rw [hsub, fgt_infOf_fZero] at h
    rw [hgt, h]
  · exact hofNan (isNanPattern_fsub (.inr hnan))
  · obtain ⟨-, -, -, hsub, -⟩ := inf_with_finite t ha
    obtain ⟨-, -, -, hgt⟩ := inf_compare_finite t ha
    rw [hsub, fgt_infOf_fZero, Bool.not_not] at h
    rw [hgt, h]
  · rw [fsub_eq_roundSum ha hb] at h
    exact (finite_compare ha hb).2.mpr (Int.sub_pos.mp (pos_of_fgt_roundSum h))

/-- A value that compares at or above zero is a zero of either sign, or above zero. -/
theorem zero_or_pos_of_fge {x : F32} (h : fge x fZero = true) : (∃ neg, x = zeroOf neg) ∨ fgt x fZero = true := by
  obtain hnan | ⟨neg, rfl⟩ | ⟨k, hk⟩ := value_cases x
  · simp [fge_nan_eq_false (.inl hnan)] at h
  · obtain ⟨hge, hgt, -⟩ := inf_compare_finite neg finiteUnits_fZero
    exact .inr (hgt.trans (hge.symm.trans h))
  · obtain ⟨hge, hgt⟩ := finite_compare hk finiteUnits_fZero
    rcases (hge.mp h).eq_or_lt with rfl | hpos
    · exact .inl ⟨_, eq_zeroOf hk⟩
    · exact .inr (hgt.mpr hpos)

theorem fge_of_fgt {a b : F32} (h : fgt a b = true) : fge a b = true := by
  unfold fgt at h
  unfold fge
  split at h
  · simp_all
    omega
  · cases h

/-! ### Values above zero -/

/-- A value above zero is a magnitude with a positive sign. -/
theorem exists_packSign_of_pos {x : F32} (h : fgt x fZero = true) :
    ∃ mag, 0 < mag ∧ mag ≤ 0x7F800000 ∧ x = packSign false mag := by
  have hmag : ¬ 0x7F800000 < magBits x := fun hnan => by
    simp [fgt_nan_eq_false (.inl ((isNanPattern_iff x).mpr hnan))] at h
  rw [fgt_eq ((orderKey_eq x).trans (if_neg hmag)) (orderKey_of_finiteUnits finiteUnits_fZero),
    decide_eq_true_iff] at h
  have hsign : signBit x = false := by
    by_contra hs
    rw [Bool.eq_true_of_not_eq_false hs, signedUnits, if_pos rfl] at h
    omega
  refine ⟨magBits x, Nat.pos_of_ne_zero fun hzero => ?_, Nat.le_of_not_lt hmag, ?_⟩
  · simp [hzero, signedUnits] at h
  · rw [← hsign, packSign_signBit_magBits]

theorem fgt_positive {m n : Nat} (hm : m ≤ 0x7F800000) (hn : n ≤ 0x7F800000) :
    fgt (packSign false m) (packSign false n) = decide (n < m) := by
  rw [fgt_eq (orderKey_packSign _ hm) (orderKey_packSign _ hn)]
  simp [signedUnits, magUnits_strictMono.lt_iff_lt]

/-- Rounding a value of at least one unit takes away at most half of it. -/
theorem le_two_mul_roundSteps {num den : Nat} (hden : 0 < den) (h : den ≤ num) :
    num ≤ 2 * magUnits (roundSteps num den) * den := by
  obtain ⟨mag, -, hlt, hround⟩ := roundSteps_neighbours num hden
  have hne : mag ≠ 0 := by
    rintro rfl
    have hone : magUnits 1 = 1 := rfl
    rw [Nat.zero_add, hone] at hlt
    omega
  have hdouble : magUnits (mag + 1) ≤ 2 * magUnits mag := magUnits_succ_le hne
  have hmono : magUnits mag ≤ magUnits (roundSteps num den) := by
    rw [hround]
    split
    · exact Nat.le_refl _
    · exact magUnits_strictMono.monotone (Nat.le_succ mag)
  calc num ≤ magUnits (mag + 1) * den := hlt.le
    _ ≤ 2 * magUnits (roundSteps num den) * den := Nat.mul_le_mul_right _ (by omega)

end Sys2Proof.Machine
end

section
/-! The ADSR envelope, stage by stage (spec/42_envelope.md R125 to R134). -/

namespace Sys2Proof.Machine

/-! ### The attack, the decay and the sustain -/

theorem envelope_attack {s : State} {t : Nat} (h : t < s.envA.toNat) (relAge : Nat) :
    envelope s t false relAge = attackGain s t := if_pos h

theorem envelope_decay {s : State} {t : Nat} (hlow : s.envA.toNat ≤ t) (hhigh : t < s.envA.toNat + s.envD.toNat)
    (relAge : Nat) : envelope s t false relAge = decayGain s t := by
  simp [envelope, hlow.not_gt, hhigh]

theorem envelope_sustain {s : State} {t : Nat} (h : s.envA.toNat + s.envD.toNat ≤ t) (relAge : Nat) :
    envelope s t false relAge = s.envS := by
  simp [envelope, h.not_gt, (Nat.le_of_add_right_le h).not_gt]

theorem ne_zero_of_lt_toNat {w : Word} {n : Nat} (h : n < w.toNat) : w ≠ 0#32 := by
  rintro rfl
  exact absurd h (Nat.not_lt_zero n)

theorem unitValue_attackGain {s : State} {t : Nat} (h : t < s.envA.toNat) : UnitValue (attackGain s t) :=
  unitValue_fdiv_cvt32 (ne_zero_of_lt_toNat h) h.le

/-- The decay starts at 1.0: a finite level's distance from 1.0 is finite, so its product with +0.0 is a zero (R127). -/
theorem decayGain_start {s : State} (hD : s.envD ≠ 0#32) (hS : isFinite s.envS = true) :
    decayGain s s.envA.toNat = fOne := by
  obtain ⟨k, hk⟩ := exists_finiteUnits hS
  obtain ⟨d, hd⟩ := exists_finiteUnits_fsub_fOne hk
  rw [decayGain, Nat.sub_self, cvt32_zero_fdiv_cvt32 hD]
  exact (congrArg _ (fmul_zeroOf hd false)).trans (fsub_zeroOf finiteUnits_fOne (by norm_num) _)

theorem unitValue_decayGain {s : State} {t : Nat} {k : Int} (hk : finiteUnits s.envS = some k) (hlow : 0 ≤ k)
    (hhigh : k ≤ 2 ^ 149) (ht : t < s.envA.toNat + s.envD.toNat) (hA : s.envA.toNat ≤ t) :
    UnitValue (decayGain s t) := by
  have hD : t - s.envA.toNat < s.envD.toNat := by omega
  obtain ⟨-, p, hle, hp⟩ := (unitValue_fmul (unitValue_fsub_fOne hk hlow hhigh)
    (unitValue_fdiv_cvt32 (ne_zero_of_lt_toNat hD) hD.le)).exists_units
  exact unitValue_fsub_fOne hp (Int.natCast_nonneg p) (by exact_mod_cast hle)

/-- Settles O49: neither stage before the sustain applies, and a value rounds to itself. -/
theorem identityEnvelopeChangesNothing : Obligations.IdentityEnvelopeChangesNothing := by
  refine ⟨fun s t relAge hA hD hS => ?_, fun x hx => fmul_fOne hx⟩
  rw [envelope_sustain (by simp [hA, hD]), hS]

/-- Settles O50, stage by stage. -/
theorem envelopeMeetsItsStageEnds : Obligations.EnvelopeMeetsItsStageEnds := by
  refine fun s relAge => ⟨fun hA => ?_, fun t ht => ?_, fun hD hS => ?_, fun t ht => envelope_sustain ht relAge⟩
  · rw [envelope_attack (toNat_pos_of_ne hA)]
    exact cvt32_zero_fdiv_cvt32 hA
  · rw [envelope_attack ht]
    exact (unitValue_attackGain ht).bounds.2
  · have hpos := toNat_pos_of_ne hD
    rw [envelope_decay (Nat.le_refl _) (by omega)]
    exact decayGain_start hD hS

/-! ### The release -/

/-- What the release takes from the sustain level after `u` samples: R130's `y`. -/
def releaseDrop (s : State) (u : Nat) : F32 := fdiv (fmul s.envS (cvt32 u)) (cvt32 s.envR.toNat)

theorem releaseGain_of_zero_length {s : State} (h : s.envR = 0#32) (u : Nat) : releaseGain s u = fZero := if_pos h

theorem releaseGain_eq {s : State} (h : s.envR ≠ 0#32) (u : Nat) :
    releaseGain s u = floorZero (fsub s.envS (releaseDrop s u)) := if_neg h

theorem floorZero_cases (w : F32) : fgt w fZero = true ∧ floorZero w = w ∨ floorZero w = fZero := by
  unfold floorZero
  split
  · next h => exact .inl ⟨h, rfl⟩
  · exact .inr rfl

/-- The release gain is +0.0, or the level less the drop, which is then below the level. -/
theorem releaseGain_cases (s : State) (u : Nat) : releaseGain s u = fZero ∨ s.envR ≠ 0#32 ∧
    releaseGain s u = fsub s.envS (releaseDrop s u) ∧ fgt (releaseGain s u) fZero = true ∧
      fgt s.envS (releaseDrop s u) = true := by
  by_cases hR : s.envR = 0#32
  · exact .inl (releaseGain_of_zero_length hR u)
  · rw [releaseGain_eq hR]
    obtain ⟨hpos, heq⟩ | hzero := floorZero_cases (fsub s.envS (releaseDrop s u))
    · exact .inr ⟨hR, heq, heq.symm ▸ hpos, fgt_of_fgt_fsub hpos⟩
    · exact .inl hzero

/-- Settles O52: the floor lets through only what is above zero. -/
theorem releaseGainIsNeverNegative : Obligations.ReleaseGainIsNeverNegative := by
  intro s u
  obtain hzero | ⟨-, -, hpos, -⟩ := releaseGain_cases s u
  · rw [hzero]
    exact ⟨by decide, by decide, fun _ => rfl⟩
  · refine ⟨fge_of_fgt hpos, fun hneg => ?_, fun hR => releaseGain_of_zero_length hR u⟩
    have hnot : fgt 0x80000000#32 fZero = false := by decide
    rw [hneg, hnot] at hpos
    cases hpos

/-! ### The time base -/

theorem envelope_total {s : State} (h : s.mode.getLsbD 0 = false) (t relAge : Nat) :
    envelope s t true relAge = releaseGain s t :=
  congrArg (releaseGain s) (if_neg (Bool.eq_false_iff.mp h))

theorem envelope_relative {s : State} (h : s.mode.getLsbD 0 = true) (u relAge : Nat) :
    envelope s (relAge + u) true relAge = releaseGain s u :=
  congrArg (releaseGain s) ((if_pos h).trans (Nat.add_sub_cancel_left relAge u))

theorem releaseDrop_zero {s : State} (hR : s.envR ≠ 0#32) {k : Int} (hk : finiteUnits s.envS = some k) :
    ∃ neg, releaseDrop s 0 = zeroOf neg := by
  have hproduct : fmul s.envS (cvt32 0) = zeroOf (signBit s.envS ^^ false) := fmul_zeroOf hk false
  exact ⟨_, by rw [releaseDrop, hproduct, zeroOf_fdiv_cvt32 hR]⟩

/-- The release starts at the sustain level: nothing is taken from it yet (R130). -/
theorem releaseGain_zero {s : State} (hR : s.envR ≠ 0#32) (hS : isFinite s.envS = true)
    (hpos : fgt s.envS fZero = true) : releaseGain s 0 = s.envS := by
  obtain ⟨k, hk⟩ := exists_finiteUnits hS
  obtain ⟨neg, hdrop⟩ := releaseDrop_zero hR hk
  have hne := ((finite_compare hk finiteUnits_fZero).2.mp hpos).ne'
  rw [releaseGain_eq hR, hdrop, fsub_zeroOf hk hne, floorZero, if_pos hpos]

/-- Settles O51: the mode bit picks the time, and at 0 the drop is a zero. -/
theorem releaseTimeFollowsRelMode : Obligations.ReleaseTimeFollowsRelMode :=
  fun _ => ⟨envelope_total, envelope_relative, fun hmode hR hS hpos relAge =>
    (envelope_relative hmode 0 relAge).trans (releaseGain_zero hR hS hpos)⟩

/-! ### The drop against the level -/

/-- A level of zero drops by a zero or NaN. -/
theorem fgt_releaseDrop_of_zero {s : State} (hR : s.envR ≠ 0#32) {neg : Bool} (hS : s.envS = zeroOf neg) (u : Nat) :
    fgt s.envS (releaseDrop s u) = false := by
  obtain ⟨other, hproduct⟩ | hnan := zeroOrNan_fmul_left (.inl ⟨neg, hS⟩) (cvt32 u)
  · rw [releaseDrop, hproduct, zeroOf_fdiv_cvt32 hR, hS, Bool.eq_false_iff, Ne,
      (finite_compare (finiteUnits_zeroOf _) (finiteUnits_zeroOf _)).2]
    exact lt_irrefl 0
  · rw [releaseDrop, fdiv_nan_left _ hnan]
    exact fgt_nan_eq_false (.inr isNanPattern_arithNan)

/-- A drop whose product is an infinity is one too, and no level is above it. -/
theorem fgt_releaseDrop_of_inf {s : State} {u : Nat} (h : fmul s.envS (cvt32 u) = infOf false) :
    fgt s.envS (releaseDrop s u) = false := by
  obtain ⟨-, -, -, -, hquotient, -⟩ := inf_with_finite false (finiteUnits_cvt32_word s.envR)
  rw [releaseDrop, h, hquotient, signBit_cvt32]
  exact fgt_infOf_eq_false _

/-- An infinite level is never above its drop. -/
theorem fgt_releaseDrop_of_inf_level {s : State} (h : s.envS = infOf false) (u : Nat) :
    fgt s.envS (releaseDrop s u) = false := by
  obtain hinf | hfin := cvt32_cases u
  · exact fgt_releaseDrop_of_inf (by rw [h, hinf]; decide)
  · obtain ⟨-, -, -, -, -, -, hproduct, -⟩ := inf_with_finite false hfin
    split at hproduct
    · rw [releaseDrop, h, fdiv_nan_left _ (unpack_of_isNanPattern hproduct.1)]
      exact fgt_nan_eq_false (.inr isNanPattern_arithNan)
    · exact fgt_releaseDrop_of_inf (by rw [h, hproduct.1, signBit_cvt32]; rfl)

/-- A level above zero is not above its drop, or both are finite and the drop is made of two rounded magnitudes. -/
theorem releaseDrop_cases {s : State} (hR : s.envR ≠ 0#32) (hS : fgt s.envS fZero = true) (u : Nat) :
    fgt s.envS (releaseDrop s u) = false ∨
    ∃ level product, 0 < level ∧ level < 0x7F800000 ∧ s.envS = packSign false level ∧
      roundSteps (magUnits level * cvtUnits u) (2 ^ 149) = product ∧
      releaseDrop s u = packSign false (roundMag (magUnits product * 2 ^ 149) (cvtUnits s.envR.toNat)) := by
  obtain ⟨level, hpos, hle, hlevel⟩ := exists_packSign_of_pos hS
  rcases hle.eq_or_lt with rfl | hlt
  · exact .inl (fgt_releaseDrop_of_inf_level (hlevel.trans (packSign_inf false)) u)
  have hunits := finiteUnits_positive hlt
  have hsign : signBit (packSign false level) = false := signBit_packSign hle
  obtain hinf | hfin := cvt32_cases u
  · obtain ⟨-, -, -, -, -, -, hproduct, -⟩ := inf_with_finite false hunits
    have hne : (magUnits level : Int) ≠ 0 := Int.natCast_ne_zero.mpr (magUnits_strictMono hpos).ne'
    rw [if_neg hne, hsign] at hproduct
    exact .inl (fgt_releaseDrop_of_inf (by rw [hlevel, hinf, hproduct.2]; rfl))
  · have hproduct := fmul_eq_positive hunits hfin hsign (signBit_cvt32 u)
    rcases (roundMag_le (magUnits level * cvtUnits u) (2 ^ 149)).eq_or_lt with heq | hprodLt
    · exact .inl (fgt_releaseDrop_of_inf (by rw [hlevel, hproduct, heq, packSign_inf]))
    · have hsteps : roundMag (magUnits level * cvtUnits u) (2 ^ 149) =
          roundSteps (magUnits level * cvtUnits u) (2 ^ 149) := by
        rw [roundMag_eq_min] at hprodLt ⊢
        omega
      refine .inr ⟨level, _, hpos, hlt, hlevel, hsteps.symm, ?_⟩
      rw [releaseDrop, hlevel, hproduct]
      exact fdiv_eq_positive (finiteUnits_positive hprodLt) (finiteUnits_cvt32_word _) (signBit_packSign hprodLt.le)
        (signBit_cvt32 _) (cvtUnits_word_pos hR)

/-- A release from a level between 0 and 1 stays there: the drop is not negative (R133). -/
theorem unitValue_releaseGain {s : State} {k : Int} (hk : finiteUnits s.envS = some k) (hlow : fge s.envS fZero = true)
    (hhigh : k ≤ 2 ^ 149) (u : Nat) : UnitValue (releaseGain s u) := by
  obtain hzero | ⟨hR, hgain, hpos, hgt⟩ := releaseGain_cases s u
  · exact ⟨0, by norm_num, hzero⟩
  obtain ⟨neg, hS⟩ | hS := zero_or_pos_of_fge hlow
  · exact absurd hgt (Bool.eq_false_iff.mp (fgt_releaseDrop_of_zero hR hS u))
  obtain hge | ⟨level, product, -, -, -, -, hdrop⟩ := releaseDrop_cases hR hS u
  · exact absurd hgt (Bool.eq_false_iff.mp hge)
  rcases (roundMag_le (magUnits product * 2 ^ 149) (cvtUnits s.envR.toNat)).eq_or_lt with heq | hlt
  · rw [hdrop, heq, packSign_inf, fgt_infOf_eq_false] at hgt
    cases hgt
  · rw [hgain, hdrop, fsub_eq_roundSum hk (finiteUnits_positive hlt)] at hpos ⊢
    have hdiff := pos_of_fgt_roundSum hpos
    exact unitValue_roundSum hdiff.le (fun h => absurd h hdiff.ne') (by omega)

theorem exists_unit_level {x : F32} (hlow : fge x fZero = true) (hhigh : fge fOne x = true) :
    ∃ k, finiteUnits x = some k ∧ 0 ≤ k ∧ k ≤ 2 ^ 149 := by
  obtain hnan | ⟨neg, rfl⟩ | ⟨k, hk⟩ := value_cases x
  · simp [fge_nan_eq_false (.inl hnan)] at hlow
  · obtain ⟨hge, -⟩ := inf_compare_finite neg finiteUnits_fZero
    obtain ⟨-, -, hle, -⟩ := inf_compare_finite neg finiteUnits_fOne
    simp_all
  · exact ⟨k, hk, (finite_compare hk finiteUnits_fZero).1.mp hlow, (finite_compare finiteUnits_fOne hk).1.mp hhigh⟩

/-- Settles O53, stage by stage. -/
theorem envelopeStaysInUnitRange : Obligations.EnvelopeStaysInUnitRange := by
  intro s t relAge released hlow hhigh
  obtain ⟨k, hk, hk0, hk1⟩ := exists_unit_level hlow hhigh
  cases released with
  | true => exact (unitValue_releaseGain hk hlow hk1 (releaseBase s t relAge)).bounds
  | false =>
    by_cases hA : t < s.envA.toNat
    · rw [envelope_attack hA]
      exact (unitValue_attackGain hA).bounds
    by_cases hD : t < s.envA.toNat + s.envD.toNat
    · rw [envelope_decay (Nat.le_of_not_lt hA) hD]
      exact (unitValue_decayGain hk hk0 hk1 hD (Nat.le_of_not_lt hA)).bounds
    · rw [envelope_sustain (Nat.le_of_not_lt hD)]
      exact ⟨hlow, hhigh⟩

/-- From 2R on the drop has reached the level: its product is at least half of level · 2R (R134). -/
theorem fgt_releaseDrop_of_two_mul_le {s : State} {u : Nat} (hR : s.envR ≠ 0#32) (hS : fgt s.envS fZero = true)
    (hlt : 2 * s.envR.toNat < 2 ^ 24) (hu : 2 * s.envR.toNat ≤ u) : fgt s.envS (releaseDrop s u) = false := by
  obtain hge | ⟨level, product, hpos, hfin, hlevel, hproduct, hdrop⟩ := releaseDrop_cases hR hS u
  · exact hge
  have hcvtR : cvtUnits s.envR.toNat = s.envR.toNat * 2 ^ 149 := cvtUnits_of_lt (by omega)
  have hcvtu : 2 * s.envR.toNat * 2 ^ 149 ≤ cvtUnits u := cvtUnits_of_lt hlt ▸ cvtUnits_mono hu
  have hRpos := toNat_pos_of_ne hR
  have hlevelPos : 0 < magUnits level := magUnits_strictMono hpos
  have hunit : 2 ^ 149 ≤ magUnits level * cvtUnits u :=
    calc 2 ^ 149 ≤ 2 * s.envR.toNat * 2 ^ 149 := Nat.le_mul_of_pos_left _ (by omega)
      _ ≤ cvtUnits u := hcvtu
      _ ≤ magUnits level * cvtUnits u := Nat.le_mul_of_pos_left _ hlevelPos
  have hhalf := le_two_mul_roundSteps (by positivity) hunit
  rw [hproduct] at hhalf
  have hreached : level ≤ roundMag (magUnits product * 2 ^ 149) (cvtUnits s.envR.toNat) := by
    have hcvtPos := cvtUnits_word_pos hR
    rw [← roundMag_magUnits_mul hfin.le hcvtPos]
    refine roundMag_mono ?_ hcvtPos
    rw [hcvtR]
    refine Nat.le_of_mul_le_mul_left ?_ Nat.two_pos
    calc 2 * (magUnits level * (s.envR.toNat * 2 ^ 149)) = magUnits level * (2 * s.envR.toNat * 2 ^ 149) := by ring
      _ ≤ magUnits level * cvtUnits u := Nat.mul_le_mul_left _ hcvtu
      _ ≤ 2 * magUnits product * 2 ^ 149 := hhalf
      _ = 2 * (magUnits product * 2 ^ 149) := Nat.mul_assoc _ _ _
  rw [hdrop, hlevel, fgt_positive hfin.le (roundMag_le _ _)]
  exact decide_eq_false hreached.not_gt

/-- Settles O54: a difference above zero needs a level above its drop. -/
theorem releaseEndsByTwiceItsLength : Obligations.ReleaseEndsByTwiceItsLength := by
  intro s u hS hlt hu
  refine (releaseGain_cases s u).resolve_right ?_
  rintro ⟨hR, -, -, hgt⟩
  obtain ⟨neg, hzero⟩ | hpos := zero_or_pos_of_fge hS
  · exact Bool.eq_false_iff.mp (fgt_releaseDrop_of_zero hR hzero u) hgt
  · exact Bool.eq_false_iff.mp (fgt_releaseDrop_of_two_mul_le hR hpos hlt hu) hgt

end Sys2Proof.Machine
end

section
/-! The parameter store: PSET writes the cell its index names and PGET reads it back, on either port
(spec/43_parameter_store.md R141 to R143). -/

namespace Sys2Proof.Machine

/-! ### The cell that an index names -/

theorem paramCell?_of_lt {index : Byte} (h : index.toNat < 17) : paramCell? index = some ⟨index.toNat, h⟩ := dif_pos h

theorem paramCell?_of_ge {index : Byte} (h : 17 ≤ index.toNat) : paramCell? index = none := dif_neg h.not_gt

theorem pgetValue_of_lt {index : Byte} (h : index.toNat < 17) (s : State) :
    pgetValue index s = s.params[index.toNat] := by
  rw [pgetValue, paramCell?_of_lt h]; rfl

theorem pgetValue_of_ge {index : Byte} (h : 17 ≤ index.toNat) (s : State) : pgetValue index s = 0#32 := by
  rw [pgetValue, paramCell?_of_ge h]

theorem pgetValue_congr {s t : State} (h : t.params = s.params) (index : Byte) :
    pgetValue index t = pgetValue index s := by
  simp only [pgetValue, readParam, h]

theorem psetState_of_lt {index : Byte} (h : index.toNat < 17) (value : F32) (s : State) :
    psetState index value s = writeParam ⟨index.toNat, h⟩ value s := by
  rw [psetState, paramCell?_of_lt h]

theorem psetState_of_ge {index : Byte} (h : 17 ≤ index.toNat) (value : F32) (s : State) :
    psetState index value s = s := by
  rw [psetState, paramCell?_of_ge h]

/-- A PSET changes the parameter cells alone. -/
theorem psetState_eq (index : Byte) (value : F32) (s : State) :
    psetState index value s = { s with params := (psetState index value s).params } := by
  unfold psetState; split <;> rfl

theorem psetState_getElem (index : Byte) (value : F32) (s : State) {k : Nat} (hk : k < 17) :
    (psetState index value s).params[k] = if k = index.toNat then value else s.params[k] := by
  by_cases hlt : index.toNat < 17
  · simp only [psetState_of_lt hlt, writeParam_params, Vector.getElem_set, eq_comm]
  · have hne : k ≠ index.toNat := by omega
    rw [psetState_of_ge (Nat.le_of_not_lt hlt), if_neg hne]

theorem pgetValue_psetState_same {index : Byte} (h : index.toNat < 17) (value : F32) (s : State) :
    pgetValue index (psetState index value s) = value := by
  rw [pgetValue_of_lt h, psetState_getElem _ _ _ h, if_pos rfl]

theorem pgetValue_psetState_other {index other : Byte} (h : index ≠ other) (value : F32) (s : State) :
    pgetValue index (psetState other value s) = pgetValue index s := by
  by_cases hlt : index.toNat < 17
  · have hne : index.toNat ≠ other.toNat := fun heq => h (BitVec.eq_of_toNat_eq heq)
    rw [pgetValue_of_lt hlt, pgetValue_of_lt hlt, psetState_getElem _ _ _ hlt, if_neg hne]
  · rw [pgetValue_of_ge (Nat.le_of_not_lt hlt), pgetValue_of_ge (Nat.le_of_not_lt hlt)]

/-! ### The two commands -/

/-- What a PSET cannot change: all but the parameter cells and the command ports. -/
def SameButParams (s t : State) : Prop :=
  samePool s t ∧ sameControls s t ∧ sameSil s t ∧ sameRam s t ∧ sameRender s t ∧ sameOutside s t

theorem answers_with_params (cells : Vector F32 17) (st : Status) (data : Word) (s : State) : ∃ t,
    complete ⟨{ s with params := cells }, st, data⟩ = .next t ∧ answeredWith s t st data ∧ t.params = cells ∧
      SameButParams s t := by
  have hkeep : KeepsOutside s { s with params := cells } := ⟨rfl, rfl, rfl, rfl, rfl, rfl⟩
  have ⟨_, hpool, hcontrols, hsil, hram, hrender, _⟩ := sameCore_respond st data { s with params := cells }
  exact ⟨_, rfl, answeredWith_settle hkeep, respond_params _ _ _, hpool, hcontrols, hsil, hram, hrender,
    sameOutside_settle hkeep⟩

theorem exec_pset (index : Byte) (value : F32) (s : State) : ∃ t, exec (.pset index value) s = .next t ∧
    answeredWith s t .ok 0#32 ∧ t.params = (psetState index value s).params ∧ SameButParams s t := by
  have h := answers_with_params (psetState index value s).params .ok 0#32 s
  rwa [← psetState_eq] at h

theorem exec_pget (index : Byte) (s : State) : ∃ t, exec (.pget index) s = .next t ∧
    answeredWith s t .ok (pgetValue index s) ∧ sameCore s t :=
  answers_without_effect .ok (pgetValue index s) s

/-- Settles O29, cell by cell. -/
theorem psetWritesOneCell : Obligations.PsetWritesOneCell := by
  refine ⟨fun _ hop => (Decodes.pset hop).decode_eq, fun index value s => ?_⟩
  obtain ⟨t, hexec, hanswer, hparams, hframe⟩ := exec_pset index value s
  refine ⟨t, hexec, hanswer, fun k hk => ?_, hframe⟩
  simp only [hparams, psetState_getElem]

/-- Settles O30: the work changes nothing, and its answer is the cell's value or 0. -/
theorem pgetReadsOneCell : Obligations.PgetReadsOneCell := by
  refine ⟨fun _ hop => (Decodes.pget hop).decode_eq, fun index s => ?_⟩
  obtain ⟨t, hexec, hanswer, hcore⟩ := exec_pget index s
  exact ⟨t, hexec, hcore, fun h => pgetValue_of_lt h s ▸ hanswer, fun h => pgetValue_of_ge h s ▸ hanswer⟩

/-! ### What other commands leave in a cell -/

/-- A command that is not a PSET of a cell leaves the value that a PGET of it returns. -/
theorem Work.pgetValue_eq {i : Instr} {s u : State} (h : Work i s u) {index : Byte}
    (hi : ∀ value, i ≠ .pset index value) : pgetValue index u = pgetValue index s := by
  cases h with
  | none => rfl
  | @pset other value cell hpset hcell =>
    have hne : index ≠ other := by rintro rfl; exact hi value hpset
    have hwrite : writeParam cell value s = psetState other value s := by rw [psetState, hcell]
    rw [hwrite, pgetValue_psetState_other hne]
  | @control _ value r => cases r <;> rfl
  | noteOn => rfl
  | noteOff => rfl
  | @render c n => exact pgetValue_congr (mixBlock_params ⟨s.params, c, n⟩ (renderBegin c n s)) index

theorem exec_pgetValue {i : Instr} {index : Byte} (hi : ∀ value, i ≠ .pset index value) (s : State) :
    ∃ t, exec i s = .next t ∧ pgetValue index t = pgetValue index s := by
  obtain ⟨r, hexec, hwork⟩ := exec_eq_complete_work i s
  exact ⟨r.settle, hexec, (pgetValue_congr (respond_params _ _ _) index).trans (hwork.pgetValue_eq hi)⟩

theorem execSeq_cons {c : PortId × Instr} {s t : State} (h : exec c.2 { s with issuer := c.1 } = .next t)
    (rest : List (PortId × Instr)) : execSeq (c :: rest) s = execSeq rest t := by
  rw [execSeq, h]

theorem execSeq_pgetValue {index : Byte} {between : List (PortId × Instr)}
    (h : ∀ c ∈ between, ∀ value, c.2 ≠ .pset index value) (s : State) :
    ∃ t, execSeq between s = some t ∧ pgetValue index t = pgetValue index s := by
  induction between generalizing s with
  | nil => exact ⟨s, rfl, rfl⟩
  | cons c rest ih =>
    obtain ⟨hfirst, hrest⟩ := List.forall_mem_cons.mp h
    obtain ⟨t, hexec, hkept⟩ := exec_pgetValue hfirst { s with issuer := c.1 }
    obtain ⟨u, hseq, hvalue⟩ := ih hrest t
    exact ⟨u, (execSeq_cons hexec rest).trans hseq, hvalue.trans hkept⟩

/-- Settles O31: the PSET leaves the value, the commands in between keep it, and the PGET answers it. -/
theorem parameterRoundTrip : Obligations.ParameterRoundTrip := by
  refine ⟨fun index value p q between s hindex hbetween => ?_, fun index value s hindex => ?_⟩
  · obtain ⟨t, hpset, -, hparams, -⟩ := exec_pset index value { s with issuer := p }
    have hwritten : pgetValue index t = value :=
      (pgetValue_congr hparams index).trans (pgetValue_psetState_same (Nat.lt_succ_of_le hindex) value _)
    obtain ⟨u, hseq, hkept⟩ := execSeq_pgetValue hbetween t
    obtain ⟨v, hpget, hanswer, -⟩ := exec_pget index { u with issuer := q }
    have hread : pgetValue index { u with issuer := q } = value := hkept.trans hwritten
    exact ⟨u, v, (execSeq_cons hpset between).trans hseq, hpget, hread ▸ hanswer⟩
  · obtain ⟨t, hpget, hread, -⟩ := exec_pget index s
    obtain ⟨u, hpset, hanswer, hparams, hframe⟩ := exec_pset index value s
    rw [psetState_of_ge hindex] at hparams
    exact ⟨⟨t, hpget, pgetValue_of_ge hindex s ▸ hread⟩, u, hpset, hanswer, hparams, hframe⟩

end Sys2Proof.Machine
end

section
/-! RENDER on port H as a whole: its bounds, the words it leaves inside and outside its region, the pool it leaves and
its answer (spec/44_renderer.md R150 to R159). -/

namespace Sys2Proof.Machine

/-! ### Operands and ages -/

theorem renderInRange_eq_false_iff (c : Byte) (n : BitVec 16) :
    renderInRange c n = false ↔ 4096 < n.toNat ∨ 2 < c.toNat := by
  rw [Bool.eq_false_iff, Ne, renderInRange_iff, not_and_or, Nat.not_le, Nat.not_le]

/-- An advanced age stops at 2^64 - 1 (R27, R95). -/
theorem advanceAge_toNat (age : BitVec 64) (n : Nat) :
    (advanceAge age n).toNat = min (age.toNat + n) (2 ^ 64 - 1) := by
  rw [advanceAge, BitVec.toNat_ofNat, Config.maxAge]
  omega

/-- A product with an operand that is not finite is not finite (R9). -/
theorem isFinite_fmul_eq_false {a b : F32} (h : isFinite a = false ∨ isFinite b = false) :
    isFinite (fmul a b) = false := by
  unfold fmul
  split
  case h_4 | h_5 => split <;> simp [isFinite]
  case h_6 ha hb => simp [isFinite, ha, hb] at h
  all_goals simp [isFinite]

/-! ### The state that a RENDER's work leaves -/

/-- A RENDER's work after its latch changes SAMPLE_RAM, SIL, the pool and BUSY alone; the pool is aged and reaped under
the registers of the start, silenced or not (R155 to R157, R159). -/
theorem renderFinish_state (job : RenderJob) (s : State) : (renderFinish job s).state =
    { s with
      ram := (mixBlock job s).ram
      sil := (mixBlock job s).sil
      voices := poolAfterBlock s job.samples.toNat
      render := none } := by
  simp only [renderFinish]
  rw [mixBlock_eq]
  rfl

/-- The mix leaves every word outside the region as it was (R159). -/
theorem word_mixBlock_outside {s : State} {job : RenderJob} {a : Nat} (h : a ∉ region job) (epoch : Nat) :
    (mixBlock job s).ram.word epoch a = s.ram.word epoch a := by
  have hsum := sumVoices_find_outside s job a h
  unfold mixBlock
  dsimp only
  split
  · simp only [silence_ram, Memory.word, Memory.find_zero, if_neg h, hsum]
  · simp only [Memory.word, hsum]

/-- A block faults exactly when it has a channel and some sample of it is not finite (R155). -/
theorem blockFaults_eq {s : State} {c : Byte} {n : BitVec 16} (hrange : renderInRange c n = true) :
    blockFaults s.epoch ⟨s.params, c, n⟩ (sumVoices s ⟨s.params, c, n⟩) = (c != 0#8 && mixFaults s n.toNat) := by
  refine Bool.eq_iff_iff.mpr ⟨fun h => ?_, fun h => ?_⟩
  · simpa using mixFaults_of_blockFaults hrange h
  · obtain ⟨hc, hmix⟩ := Bool.and_eq_true_iff.mp h
    obtain ⟨i, hi, hfault⟩ := List.any_eq_true.mp hmix
    have hi := List.mem_range.mp hi
    have hch : 0 < c.toNat := Nat.pos_of_ne_zero fun h0 => bne_iff_ne.mp hc (BitVec.eq_of_toNat_eq h0)
    refine List.any_eq_true.mpr ⟨sampleWord 0 i, (mem_region _ _).mpr ⟨0, i, hch, hi, rfl⟩, ?_⟩
    rwa [word_sumVoices (job := ⟨s.params, c, n⟩) hrange hch hi]

/-! ### A RENDER of an accepted block -/

/-- What an accepted RENDER leaves once it has answered. -/
def rendered (c : Byte) (n : BitVec 16) (s : State) : State :=
  (renderFinish ⟨s.params, c, n⟩ (renderBegin c n s)).settle

theorem exec_render_rejected {c : Byte} {n : BitVec 16} {s : State} (hs : s.issuer = .h)
    (hrange : renderInRange c n = false) : exec (.render c n) s = complete (failWith .eRange s) := by
  simp only [exec, execRender, portHOnly_h _ hs, renderBlock, hrange, Bool.false_eq_true, if_false]

@[simp] theorem rendered_voices (c : Byte) (n : BitVec 16) (s : State) :
    (rendered c n s).voices = poolAfterBlock s n.toNat := by
  rw [rendered, Reply.settle, respond_voices, renderFinish_state]
  rfl

@[simp] theorem rendered_params (c : Byte) (n : BitVec 16) (s : State) : (rendered c n s).params = s.params := by
  rw [rendered, Reply.settle, respond_params, renderFinish_state]
  rfl

theorem sameControls_rendered (c : Byte) (n : BitVec 16) (s : State) : sameControls s (rendered c n s) := by
  simp [sameControls, rendered, Reply.settle, renderFinish_state]

theorem busy_rendered (c : Byte) (n : BitVec 16) (s : State) : (rendered c n s).busy = false :=
  busy_settle_renderFinish _ _

/-- A word outside the region reads as it did (R159). -/
theorem readRam_rendered_outside {c : Byte} {n : BitVec 16} {s : State} {a : Nat}
    (h : a ∉ region ⟨s.params, c, n⟩) : readRam a (rendered c n s) = readRam a s := by
  simp [readRam, rendered, Reply.settle, renderFinish_state, word_mixBlock_outside h]

section Accepted
variable {c : Byte} {n : BitVec 16} {s : State} (hrange : renderInRange c n = true)
include hrange

theorem exec_render_accepted (hs : s.issuer = .h) : exec (.render c n) s = .next (rendered c n s) :=
  exec_render_of_range hs hrange

theorem renderBlock_keepsOutside :
    KeepsOutside s (renderFinish ⟨s.params, c, n⟩ (renderBegin c n s)).state := by
  simpa only [renderBlock, if_pos hrange] using renderBlock_keeps c n s

theorem sameOutside_rendered : sameOutside s (rendered c n s) := sameOutside_settle (renderBlock_keepsOutside hrange)

/-- DATA[31] tells of a silenced block, DATA[4:0] how many voices were rendered (R158). -/
theorem answeredWith_rendered : answeredWith s (rendered c n s) .ok
    (renderData (c != 0#8 && mixFaults s n.toNat) s.voices.length) := by
  rw [← blockFaults_eq hrange]
  exact answeredWith_settle (renderBlock_keepsOutside hrange)

theorem rendered_sil : (rendered c n s).sil = (s.sil || (c != 0#8 && mixFaults s n.toNat)) := by
  rw [rendered, Reply.settle, respond_sil, renderFinish_sil, Bool.or_comm, ← blockFaults_eq hrange]
  rfl

/-- Every word of the region holds the mix, or +0.0 when any sum of the block is not finite (R153 to R155). -/
theorem readRam_rendered {ch i : Nat} (hch : ch < c.toNat) (hi : i < n.toNat) :
    readRam (sampleWord ch i) (rendered c n s) = if mixFaults s n.toNat then 0#32 else mixedSample s i := by
  have hc : (c != 0#8) = true := bne_iff_ne.mpr (by rintro rfl; exact Nat.not_lt_zero _ hch)
  have hfault := blockFaults_eq (s := s) hrange
  rw [hc, Bool.true_and] at hfault
  rw [← hfault, rendered, readRam_settle_renderFinish (job := ⟨s.params, c, n⟩) hrange hch hi,
    word_mixBlock (job := ⟨s.params, c, n⟩) hrange hch hi]
  rfl

end Accepted

/-- Settles O36, by whether the operands are inside the bounds. -/
theorem renderChecksBlockBounds : Obligations.RenderChecksBlockBounds := by
  intro c n s hs
  simp only [← renderInRange_iff, ← renderInRange_eq_false_iff]
  cases hrange : renderInRange c n with
  | true => exact ⟨_, exec_render_accepted hrange hs, fun _ => ⟨_, answeredWith_rendered hrange⟩, nofun⟩
  | false =>
    obtain ⟨t, hfail, heffect⟩ := answers_without_effect .eRange 0#32 s
    exact ⟨t, (exec_render_rejected hs hrange).trans hfail, nofun, fun _ => heffect⟩

/-- Settles O37: the region's words, SIL, the pool and the answer of an accepted RENDER, and the two operations that carry
a value that is not finite to the fault check. -/
theorem renderMixesOrFallsSilent : Obligations.RenderMixesOrFallsSilent := by
  refine ⟨fun c n s hs hn hc => ?_, fun _ _ h => ⟨isFinite_fadd_eq_false h, isFinite_fmul_eq_false h⟩⟩
  have hrange := (renderInRange_iff c n).mpr ⟨hn, hc⟩
  exact ⟨_, exec_render_accepted hrange hs, fun _ _ hch hi => readRam_rendered hrange hch hi, rendered_sil hrange,
    rendered_voices c n s, answeredWith_rendered hrange⟩

/-- Settles O38: a word that no channel and sample of the block name is outside the region. -/
theorem renderFrame : Obligations.RenderFrame := by
  intro c n s hs hn hc
  have hrange := (renderInRange_iff c n).mpr ⟨hn, hc⟩
  refine ⟨_, exec_render_accepted hrange hs, fun a ha => readRam_rendered_outside fun hmem => ?_,
    rendered_params c n s, sameControls_rendered c n s, busy_rendered c n s, sameOutside_rendered hrange⟩
  obtain ⟨ch, i, hch, hi, rfl⟩ := (mem_region _ a).mp hmem
  exact ha ch i hch hi rfl

/-- Settles O39: the pool of an accepted RENDER, and a tick field by field. -/
theorem renderAgesThenReaps : Obligations.RenderAgesThenReaps := by
  refine fun c n s hs hn hc => ⟨?_, fun v => ⟨advanceAge_toNat v.age n.toNat, rfl, rfl, rfl, rfl⟩⟩
  have hrange := (renderInRange_iff c n).mpr ⟨hn, hc⟩
  exact ⟨_, exec_render_accepted hrange hs, rendered_voices c n s⟩

end Sys2Proof.Machine
end

section
/-! The event and control commands: NOP and the ignored EVENTs only answer, CWR writes one register, CRD reads one, and
VRD reads one field of a voice (spec/45_host_commands.md R165 to R169). -/

namespace Sys2Proof.Machine

/-! ### Commands that only answer -/

/-- A command that port A does not admit is refused there (R77). -/
theorem rejectedOnA_of_not_admitted {i : Instr} (hi : admittedOnA i = false) : rejectedOnA i := fun s hs => by
  rw [exec_a_of_not_admitted hs hi]
  exact answers_without_effect .eIllegal 0#32 s

/-- A reply that leaves the state alone only answers, with its own status and data. -/
theorem answers_query {r : Reply} {s : State} (h : r.state = s) : ∃ t, complete r = .next t ∧ sameCore s t ∧
    ∀ {st data}, r = ⟨s, st, data⟩ → answeredWith s t st data := by
  subst h
  obtain ⟨t, hexec, hanswer, hcore⟩ := answers_without_effect r.status r.data r.state
  exact ⟨t, hexec, hcore, fun heq => by rwa [heq] at hanswer ⊢⟩

/-- Settles O22: the decoder's first row, and work that is an answer. -/
theorem nopOnlyAnswers : Obligations.NopOnlyAnswers :=
  ⟨fun _ hop => (Decodes.nop hop).decode_eq, (Decodes.nop rfl).decode_eq, answers_without_effect .ok 0#32⟩

/-- Settles O23: on port H the work is an answer. -/
theorem ignoredEventOnlyAnswers : Obligations.IgnoredEventOnlyAnswers := by
  intro status data1 data2 s hs
  obtain ⟨t, hcomplete, heffect⟩ := answers_without_effect .ok 0#32 s
  exact ⟨t, (congrArg complete (portHOnly_h _ hs)).trans hcomplete, heffect⟩

/-! ### The numbers of the control registers -/

/-- The number of a control register (R30). -/
def ControlReg.number (r : ControlReg) : Byte :=
  match r with
  | .mode => 0x00#8
  | .envA => 0x01#8
  | .envD => 0x02#8
  | .envS => 0x03#8
  | .envR => 0x04#8
  | .sampleRate => 0x05#8
  | .status => 0x06#8
  | .id => 0x07#8
  | .caps => 0x08#8

@[simp] theorem controlReg?_number (r : ControlReg) : controlReg? r.number = some r := by cases r <;> rfl

theorem eq_number_of_controlReg? {reg : Byte} {r : ControlReg} (h : controlReg? reg = some r) : reg = r.number := by
  unfold controlReg? at h
  split_ifs at h <;> cases h <;> assumption

theorem ne_of_toNat_bounds {b : Byte} {n : Nat} (hb : n ≤ b.toNat) (k : Byte) (hk : k.toNat < n) : b ≠ k := by
  rintro rfl
  omega

/-- A byte names no register just when it is past the last one (R40). -/
theorem controlReg?_eq_none_iff (reg : Byte) : controlReg? reg = none ↔ 9 ≤ reg.toNat := by
  refine ⟨fun h => ?_, fun h => by simp [controlReg?, ne_of_toNat_bounds h]⟩
  unfold controlReg? at h
  split_ifs at h
  bv_omega

/-! ### CWR -/

section WriteControl
variable (r : ControlReg) (v : Word) (s : State)

@[simp] theorem writeControl_mode : (writeControl r v s).mode = if r = .mode then modeWritten v else s.mode := by
  cases r <;> rfl
@[simp] theorem writeControl_envA : (writeControl r v s).envA = if r = .envA then v else s.envA := by cases r <;> rfl
@[simp] theorem writeControl_envD : (writeControl r v s).envD = if r = .envD then v else s.envD := by cases r <;> rfl
@[simp] theorem writeControl_envS : (writeControl r v s).envS = if r = .envS then v else s.envS := by cases r <;> rfl
@[simp] theorem writeControl_envR : (writeControl r v s).envR = if r = .envR then v else s.envR := by cases r <;> rfl
@[simp] theorem writeControl_sampleRate :
    (writeControl r v s).sampleRate = if r = .sampleRate then v else s.sampleRate := by cases r <;> rfl
@[simp] theorem writeControl_sil : (writeControl r v s).sil = if r = .status then silWritten v s.sil else s.sil := by
  cases r <;> rfl
@[simp] theorem writeControl_params : (writeControl r v s).params = s.params := by cases r <;> rfl
@[simp] theorem writeControl_voices : (writeControl r v s).voices = s.voices := by cases r <;> rfl
@[simp] theorem writeControl_render : (writeControl r v s).render = s.render := by cases r <;> rfl
@[simp] theorem readRam_writeControl (a : Nat) : readRam a (writeControl r v s) = readRam a s := by cases r <;> rfl

end WriteControl

theorem controlWrite_of_some {reg : Byte} {r : ControlReg} (h : controlReg? reg = some r) (value : Word) (s : State) :
    controlWrite reg value s = ⟨writeControl r value s, .ok, 0#32⟩ := by rw [controlWrite, h]

theorem controlWrite_of_none {reg : Byte} (h : controlReg? reg = none) (value : Word) (s : State) :
    controlWrite reg value s = ⟨s, .eRange, 0#32⟩ := by rw [controlWrite, h]; rfl

/-- A field that one register holds is written by a CWR of that register's number, and by no other CWR (R167). -/
theorem controlWrite_field {α : Type} {field : State → α} {target : ControlReg} {value : Word} {new : α} {s : State}
    (hfield : ∀ r, field (writeControl r value s) = if r = target then new else field s) (reg : Byte) :
    field (controlWrite reg value s).state = if reg = target.number then new else field s := by
  cases hreg : controlReg? reg with
  | none =>
    have hne : reg ≠ target.number := by rintro rfl; simp at hreg
    rw [controlWrite_of_none hreg, if_neg hne]
  | some r =>
    have hiff : r = target ↔ reg = target.number :=
      ⟨fun h => h ▸ eq_number_of_controlReg? hreg, fun h => by simpa [h] using hreg.symm⟩
    simp only [controlWrite_of_some hreg, hfield, hiff]

/-- What no register holds, no CWR changes. -/
theorem controlWrite_other {α : Type} {field : State → α} {value : Word} {s : State}
    (hfield : ∀ r, field (writeControl r value s) = field s) (reg : Byte) :
    field (controlWrite reg value s).state = field s := by
  unfold controlWrite
  split
  · exact hfield _
  · rfl

/-- What a CWR cannot change: all but the registers, SIL and the command ports. -/
def SameButControls (s t : State) : Prop :=
  sameParams s t ∧ samePool s t ∧ sameRam s t ∧ sameRender s t ∧ sameOutside s t

theorem sameButControls_controlWrite (reg : Byte) (value : Word) (s : State) :
    SameButControls s (controlWrite reg value s).settle := by
  obtain ⟨hparams, hpool, -, -, hram, hrender, -⟩ := sameCore_respond (controlWrite reg value s).status
    (controlWrite reg value s).data (controlWrite reg value s).state
  exact ⟨hparams.trans (controlWrite_other (writeControl_params · value s) reg),
    hpool.trans (controlWrite_other (writeControl_voices · value s) reg),
    fun a => (hram a).trans (controlWrite_other (readRam_writeControl · value s a) reg),
    hrender.trans (controlWrite_other (writeControl_render · value s) reg),
    sameOutside_settle (controlWrite_keeps reg value s)⟩

theorem answeredWith_controlWrite (reg : Byte) (value : Word) (s : State) :
    if reg.toNat ≤ 8 then answeredWith s (controlWrite reg value s).settle .ok 0#32
    else answeredWith s (controlWrite reg value s).settle .eRange 0#32 := by
  have hanswer := answeredWith_settle (controlWrite_keeps reg value s)
  cases hreg : controlReg? reg with
  | none =>
    have hge := (controlReg?_eq_none_iff reg).mp hreg
    rw [if_neg (by omega)]
    rwa [controlWrite_of_none hreg] at hanswer ⊢
  | some r =>
    have hlt : ¬9 ≤ reg.toNat := by simp [← controlReg?_eq_none_iff, hreg]
    rw [if_pos (by omega)]
    rwa [controlWrite_of_some hreg] at hanswer ⊢

theorem silWritten_eq_ite (value : Word) (sil : Bool) :
    silWritten value sil = if value.getLsbD 0 = true then false else sil := by
  unfold silWritten
  cases value.getLsbD 0 <;> simp

/-- Settles O32, register by register. -/
theorem cwrWritesOneRegister : Obligations.CwrWritesOneRegister := by
  refine ⟨fun _ hop => (Decodes.cwr hop).decode_eq, fun _ _ => rejectedOnA_of_not_admitted rfl,
    fun reg value s hs => ⟨_, congrArg complete (portHOnly_h _ hs), answeredWith_controlWrite reg value s,
      ?_, ?_, ?_, ?_, ?_, ?_, ?_, sameButControls_controlWrite reg value s⟩⟩
  · exact (respond_mode _ _ _).trans (controlWrite_field (writeControl_mode · value s) reg)
  · exact (respond_envA _ _ _).trans (controlWrite_field (writeControl_envA · value s) reg)
  · exact (respond_envD _ _ _).trans (controlWrite_field (writeControl_envD · value s) reg)
  · exact (respond_envS _ _ _).trans (controlWrite_field (writeControl_envS · value s) reg)
  · exact (respond_envR _ _ _).trans (controlWrite_field (writeControl_envR · value s) reg)
  · exact (respond_sampleRate _ _ _).trans (controlWrite_field (writeControl_sampleRate · value s) reg)
  · rw [ite_and, ← silWritten_eq_ite]
    exact (respond_sil _ _ _).trans (controlWrite_field (writeControl_sil · value s) reg)

/-! ### CRD -/

theorem controlRead_number (r : ControlReg) (s : State) : controlRead r.number s = ⟨s, .ok, readControl r s⟩ := by
  rw [controlRead, controlReg?_number]

theorem controlRead_of_ge {reg : Byte} (h : 9 ≤ reg.toNat) (s : State) : controlRead reg s = ⟨s, .eRange, 0#32⟩ := by
  rw [controlRead, (controlReg?_eq_none_iff reg).mpr h]; rfl

theorem capsWord_eq : capsWord = 0x0C021110#32 := by decide

/-- Settles O33, register by register. -/
theorem crdReadsOneRegister : Obligations.CrdReadsOneRegister := by
  refine ⟨fun _ hop => (Decodes.crd hop).decode_eq, fun _ => rejectedOnA_of_not_admitted rfl, fun reg s hs => ?_⟩
  obtain ⟨t, hcomplete, hcore, hanswer⟩ := answers_query (controlRead_state reg s)
  have hread (r : ControlReg) (h : reg = r.number) : answeredWith s t .ok (readControl r s) :=
    hanswer (h ▸ controlRead_number r s)
  exact ⟨t, (congrArg complete (portHOnly_h _ hs)).trans hcomplete, hcore, hread .mode, hread .envA, hread .envD,
    hread .envS, hread .envR, hread .sampleRate, hread .status, hread .id, fun h => capsWord_eq ▸ hread .caps h,
    fun h => hanswer (controlRead_of_ge h s)⟩

/-! ### VRD -/

/-- The selector of a voice's field (R169). -/
def VoiceField.selector (f : VoiceField) : Byte :=
  match f with
  | .summary => 0x00#8
  | .ageLow => 0x01#8
  | .ageHigh => 0x02#8
  | .relAgeLow => 0x03#8
  | .relAgeHigh => 0x04#8

@[simp] theorem voiceField?_selector (f : VoiceField) : voiceField? f.selector = some f := by cases f <;> rfl

/-- A selector names no field just when it is past the last one (R169). -/
theorem voiceField?_eq_none_iff (sel : Byte) : voiceField? sel = none ↔ 5 ≤ sel.toNat := by
  refine ⟨fun h => ?_, fun h => by simp [voiceField?, ne_of_toNat_bounds h]⟩
  unfold voiceField? at h
  split_ifs at h
  bv_omega

/-- The selector is checked before the slot (R169). -/
theorem voiceRead_of_gt {sel : Byte} (h : 4 < sel.toNat) (slot : Byte) (s : State) :
    voiceRead slot sel s = ⟨s, .eRange, 0#32⟩ := by
  rw [voiceRead, (voiceField?_eq_none_iff sel).mpr h]; rfl

theorem voiceRead_of_empty {slot sel : Byte} {s : State} (hsel : sel.toNat ≤ 4)
    (hslot : s.voices.length ≤ slot.toNat) : voiceRead slot sel s = ⟨s, .ok, 0#32⟩ := by
  cases hf : voiceField? sel with
  | none =>
    have hge := (voiceField?_eq_none_iff sel).mp hf
    omega
  | some f => simp only [voiceRead, hf, List.getElem?_eq_none hslot]

theorem voiceRead_selector {slot : Byte} {s : State} {v : Voice} (hv : s.voices[slot.toNat]? = some v)
    (f : VoiceField) : voiceRead slot f.selector s = ⟨s, .ok, voiceFieldWord f v⟩ := by
  simp only [voiceRead, voiceField?_selector, hv]

/-- Settles O34: the selector's range, then an empty slot, then field by field. -/
theorem vrdReadsOneField : Obligations.VrdReadsOneField := by
  refine ⟨fun _ hop => (Decodes.vrd hop).decode_eq, fun _ _ => rejectedOnA_of_not_admitted rfl,
    fun slot sel s hs => ?_⟩
  obtain ⟨t, hcomplete, hcore, hanswer⟩ := answers_query (voiceRead_state slot sel s)
  refine ⟨t, (congrArg complete (portHOnly_h _ hs)).trans hcomplete, hcore,
    fun hsel => hanswer (voiceRead_of_gt hsel slot s), fun hsel hslot => hanswer (voiceRead_of_empty hsel hslot),
    fun v hv => ?_⟩
  have hread (f : VoiceField) (h : sel = f.selector) : answeredWith s t .ok (voiceFieldWord f v) :=
    hanswer (h ▸ voiceRead_selector hv f)
  exact ⟨hread .summary, hread .ageLow, hread .ageHigh, hread .relAgeLow, hread .relAgeHigh⟩

end Sys2Proof.Machine
end

section
/-! The host-side text functions: a label for each of the 17 parameters, and a cell's value as a percentage
(spec/46_host_metadata.md R187, R188). -/

namespace Sys2Proof.Machine

/-! ### Labels -/

theorem paramName_partial {n : Nat} (hlow : 1 ≤ n) (hhigh : n ≤ 16) :
    paramName n = "Oscillator A Partial " ++ toString n := by
  rw [paramName, if_neg (Nat.ne_of_gt hlow), if_pos hhigh]

theorem paramName_of_ge {n : Nat} (h : 17 ≤ n) : paramName n = "" := by
  rw [paramName, if_neg (by omega), if_neg (by omega)]

/-! ### The cell that is shown -/

theorem displayText_of_lt {index : Byte} (h : index.toNat < 17) (s : State) :
    displayText index s = percentOf s.params[index.toNat] := by
  rw [displayText, paramCell?_of_lt h]; rfl

theorem displayText_of_ge {index : Byte} (h : 17 ≤ index.toNat) (s : State) : displayText index s = "" := by
  rw [displayText, paramCell?_of_ge h]

/-- The cell's number, as the index byte that names it. -/
theorem displayText_ofNat {k : Nat} (h : k < 17) (s : State) :
    displayText (BitVec.ofNat 8 k) s = percentOf s.params[k] := by
  have hk : (BitVec.ofNat 8 k).toNat = k := Nat.mod_eq_of_lt (by omega)
  rw [displayText_of_lt (hk.symm ▸ h) s]
  simp only [hk]

/-! ### Percentages -/

theorem percentOf_of_nan {v : F32} (h : unpack v = .nan) : percentOf v = "NaN%" := by
  rw [percentOf, h]

theorem percentOf_of_inf {v : F32} {neg : Bool} (h : unpack v = .inf neg) :
    percentOf v = if neg then "-inf%" else "inf%" := by
  rw [percentOf, h]

theorem percentOf_of_fin {v : F32} {neg : Bool} {m e hundredths : Nat} (h : unpack v = .fin neg m e)
    (hround : divRoundEven (m * 2 ^ e * 10000) (2 ^ 149) = hundredths) : percentOf v = percentText neg hundredths := by
  rw [percentOf, h, ← hround]

/-- A value that rounds to zero is written without its sign (R188). -/
theorem percentText_zero (neg : Bool) : percentText neg 0 = "0.00%" := by cases neg <;> decide +kernel

theorem unpack_zeroOf (neg : Bool) : unpack (zeroOf neg) = .fin neg 0 0 := by cases neg <;> decide

theorem percentOf_zeroOf (neg : Bool) : percentOf (zeroOf neg) = "0.00%" := by
  rw [percentOf_of_fin (hundredths := 0) (unpack_zeroOf neg) (by decide), percentText_zero]

/-- 0.75 is 3 · 2^22 · 2^125 units. -/
theorem percentOf_threeQuarters : percentOf 0x3F400000#32 = "75.00%" := by
  rw [percentOf_of_fin (neg := false) (m := 3 * 2 ^ 22) (e := 125) (hundredths := 7500) (by decide) (by decide)]
  decide +kernel

/-- 1.0 is 2^23 · 2^126 units. -/
theorem percentOf_fOne : percentOf fOne = "100.00%" := by
  rw [percentOf_of_fin (neg := false) (m := 2 ^ 23) (e := 126) (hundredths := 10000) (by decide) (by decide)]
  decide +kernel

/-- Settles O56: the labels by the range of the index, the text by the kind of value in the cell. -/
theorem hostTextFollowsItsRules : Obligations.HostTextFollowsItsRules :=
  ⟨rfl, fun _ => paramName_partial, fun _ => paramName_of_ge, fun _ s h => displayText_of_ge h s,
    fun _ h s => displayText_ofNat h s, percentOf_threeQuarters, percentOf_fOne, percentOf_zeroOf true,
    percentOf_of_inf (unpack_infOf false), percentOf_of_inf (unpack_infOf true),
    fun v h => percentOf_of_nan ((orderKey_eq_none_iff v).mp h)⟩

end Sys2Proof.Machine
end

section
/-! Every move gives a next state, the reset input discards what was there, and a move of port A reaches the parameter
cells alone (spec/60_exceptions.md R207, R210, R213; spec/70_reset_and_hazards.md R220). -/

namespace Sys2Proof.Machine

/-! ### No stuck state -/

theorem runCommand_next (p : PortId) (s : State) : ∃ t, runCommand p s = .next t := by
  cases hfetch : fetch p s with
  | none => exact ⟨s, by rw [runCommand, hfetch]⟩
  | some w =>
    obtain ⟨t, _, _, hexec, -⟩ := exec_answers (decode w) { s with issuer := p }
    exact ⟨t, (runCommand_of_fetch hfetch).trans hexec⟩

theorem runPort_next (p : PortId) (s : State) : ∃ t, runPort p s = .next t := by
  cases p with
  | a => exact runCommand_next .a s
  | h =>
    cases hrender : s.render with
    | none => simpa only [runPort, hrender] using runCommand_next .h s
    | some job => exact ⟨_, runPort_of_render hrender⟩

theorem takeMove_next (m : Move) (s : State) : ∃ t, takeMove m s = .next t := by
  cases m with
  | run p => exact runPort_next p s
  | _ => exact ⟨_, rfl⟩

/-- Settles O8: a step is one move, and every move gives a next state. -/
theorem stepNeverStops : Obligations.StepNeverStops := fun s => by
  rw [step_eq_takeMove]
  exact takeMove_next _ _

/-! ### The reset input -/

/-- Settles O19: the state of reset, with the agenda's rest still to come and the free words of the next epoch. -/
theorem resetInputDiscardsEverything : Obligations.ResetInputDiscardsEverything := by
  intro s rest hagenda
  refine ⟨applyReset { s with agenda := rest }, by rw [step_of_agenda_cons hagenda, takeMove], rfl, rfl,
    ⟨rfl, rfl, rfl, rfl, rfl, rfl⟩, rfl, rfl, rfl, rfl, rfl, rfl, fun a ha => ?_⟩
  exact if_pos ha

/-! ### Port A -/

/-- No command of either port touches the host memory port. -/
theorem runCommand_memPort {p : PortId} {s t : State} (h : runCommand p s = .next t) : t.memPort = s.memPort := by
  cases hfetch : fetch p s with
  | none =>
    rw [runCommand, hfetch] at h
    cases h
    rfl
  | some w =>
    obtain ⟨u, _, _, hexec, -, hmem, -⟩ := exec_answers (decode w) { s with issuer := p }
    rw [runCommand_of_fetch hfetch, hexec] at h
    cases h
    exact hmem

/-- Settles O11: what a RENDER works on is out of port A's reach, and so is the host memory port. -/
theorem portATouchesParametersOnly : Obligations.PortATouchesParametersOnly := by
  intro s t rest hagenda hstep
  have hrun : runCommand .a { s with agenda := rest } = .next t := (step_of_agenda_cons hagenda).symm.trans hstep
  obtain ⟨u, hu, hblock⟩ := runCommand_a_block { s with agenda := rest }
  cases hu.symm.trans hrun
  obtain ⟨hram, hvoices, hsil, hcontrols, hportH⟩ := block_fields hblock
  exact ⟨hvoices, hcontrols, hsil, hram, (congrArg State.render hblock :), hportH, (runCommand_memPort hrun :),
    (congrArg State.epoch hblock :), (congrArg State.agenda hblock :)⟩

end Sys2Proof.Machine
end

section
/-! The status of every command on every port, and that an error leaves nothing behind (spec/60_exceptions.md R195 to
R200). -/

namespace Sys2Proof.Machine

/-- What the error rules ask of a command's work when its status is to be `st`: that status, the ports and the outside
left alone, and no effect at all when it is an error (R199). -/
structure RepliesWith (st : Status) (s : State) (r : Reply) : Prop where
  status : r.status = st
  keeps : KeepsOutside s r.state
  error : st ≠ .ok → r = failWith st s

theorem repliesWith_failWith (st : Status) (s : State) : RepliesWith st s (failWith st s) :=
  ⟨rfl, KeepsOutside.refl s, fun _ => rfl⟩

theorem repliesWith_ok {s : State} {r : Reply} (hkeeps : KeepsOutside s r.state) (hstatus : r.status = .ok) :
    RepliesWith .ok s r :=
  ⟨hstatus, hkeeps, fun h => absurd rfl h⟩

/-! ### The work of each command -/

theorem repliesWith_vpNoteOn (note velocity : Byte) (s : State) :
    RepliesWith (if 127 < note.toNat ∨ 127 < velocity.toNat then .eInval else .ok) s (vpNoteOn note velocity s) := by
  split
  · next hinvalid => rw [vpNoteOn_of_invalid hinvalid]; exact repliesWith_failWith .eInval s
  · next hvalid =>
    refine repliesWith_ok (vpNoteOn_keeps note velocity s) ?_
    rw [not_or, Nat.not_lt, Nat.not_lt] at hvalid
    rw [vpNoteOn, if_pos (by simpa [sevenBit] using hvalid)]
    dsimp only
    split <;> rfl

theorem repliesWith_vpNoteOff (note : Byte) (s : State) : RepliesWith .ok s (vpNoteOff note s) := by
  refine repliesWith_ok (vpNoteOff_keeps note s) ?_
  unfold vpNoteOff
  split <;> rfl

theorem repliesWith_renderBlock (c : Byte) (n : BitVec 16) (s : State) :
    RepliesWith (if 4096 < n.toNat ∨ 2 < c.toNat then .eRange else .ok) s (renderBlock c n s) := by
  simp only [← renderInRange_eq_false_iff]
  cases hrange : renderInRange c n with
  | true =>
    refine repliesWith_ok (renderBlock_keeps c n s) ?_
    rw [renderBlock, if_pos hrange]
    rfl
  | false =>
    rw [renderBlock, hrange]
    exact repliesWith_failWith .eRange s

theorem repliesWith_controlWrite (reg : Byte) (value : Word) (s : State) :
    RepliesWith (if 0x09 ≤ reg.toNat then .eRange else .ok) s (controlWrite reg value s) := by
  simp only [← controlReg?_eq_none_iff]
  cases hreg : controlReg? reg with
  | none => rw [controlWrite_of_none hreg]; exact repliesWith_failWith .eRange s
  | some r => rw [controlWrite_of_some hreg]; exact repliesWith_ok (writeControl_keeps r value s) rfl

theorem repliesWith_controlRead (reg : Byte) (s : State) :
    RepliesWith (if 0x09 ≤ reg.toNat then .eRange else .ok) s (controlRead reg s) := by
  simp only [← controlReg?_eq_none_iff, controlRead]
  cases controlReg? reg with
  | none => exact repliesWith_failWith .eRange s
  | some r => exact repliesWith_ok (KeepsOutside.refl s) rfl

theorem repliesWith_voiceRead (slot sel : Byte) (s : State) :
    RepliesWith (if 4 < sel.toNat then .eRange else .ok) s (voiceRead slot sel s) := by
  split
  · next hsel => rw [voiceRead_of_gt hsel]; exact repliesWith_failWith .eRange s
  · next hsel =>
    refine repliesWith_ok ((voiceRead_state slot sel s).symm ▸ KeepsOutside.refl s) ?_
    have hfield : voiceField? sel ≠ none := fun h => hsel ((voiceField?_eq_none_iff sel).mp h)
    unfold voiceRead
    split
    · next hnone => exact absurd hnone hfield
    · split <;> rfl

/-! ### Every command -/

theorem repliesWith_portHOnly {st : Status} {s : State} {body : State → Reply} (hs : s.issuer = .h)
    (h : RepliesWith st s (body s)) : RepliesWith st s (portHOnly body s) := by
  rwa [portHOnly_h body hs]

/-- A command that its port admits replies as on port H. -/
theorem exec_repliesWith_portHStatus {i : Instr} {s : State} (h : admittedOnA i = false → s.issuer = .h) :
    ∃ r, exec i s = complete r ∧ RepliesWith (portHStatus i) s r := by
  cases i with
  | nop => exact ⟨_, rfl, repliesWith_ok (KeepsOutside.refl s) rfl⟩
  | eventNoteOff d1 _ => exact ⟨_, rfl, repliesWith_portHOnly (h rfl) (repliesWith_vpNoteOff d1 s)⟩
  | eventNoteOnV0 d1 => exact ⟨_, rfl, repliesWith_portHOnly (h rfl) (repliesWith_vpNoteOff d1 s)⟩
  | eventNoteOn d1 d2 => exact ⟨_, rfl, repliesWith_portHOnly (h rfl) (repliesWith_vpNoteOn d1 d2 s)⟩
  | eventIgnored _ _ _ => exact ⟨_, rfl, repliesWith_portHOnly (h rfl) (repliesWith_ok (KeepsOutside.refl s) rfl)⟩
  | noteOn note velocity => exact ⟨_, rfl, repliesWith_portHOnly (h rfl) (repliesWith_vpNoteOn note velocity s)⟩
  | noteOff note => exact ⟨_, rfl, repliesWith_portHOnly (h rfl) (repliesWith_vpNoteOff note s)⟩
  | pset index value => exact ⟨_, rfl, repliesWith_ok (psetState_keeps index value s) rfl⟩
  | pget _ => exact ⟨_, rfl, repliesWith_ok (KeepsOutside.refl s) rfl⟩
  | render c n => exact ⟨_, rfl, repliesWith_portHOnly (h rfl) (repliesWith_renderBlock c n s)⟩
  | cwr reg value => exact ⟨_, rfl, repliesWith_portHOnly (h rfl) (repliesWith_controlWrite reg value s)⟩
  | crd reg => exact ⟨_, rfl, repliesWith_portHOnly (h rfl) (repliesWith_controlRead reg s)⟩
  | vrd slot sel => exact ⟨_, rfl, repliesWith_portHOnly (h rfl) (repliesWith_voiceRead slot sel s)⟩
  | illegal _ => exact ⟨_, rfl, repliesWith_failWith .eIllegal s⟩

/-- Admission comes first, and then the command's own rule (R200). -/
theorem exec_repliesWith (i : Instr) (s : State) :
    ∃ r, exec i s = complete r ∧ RepliesWith (expectedStatus i s.issuer) s r := by
  unfold expectedStatus
  split
  · next hrefused => exact ⟨_, exec_a_of_not_admitted hrefused.1 hrefused.2, repliesWith_failWith .eIllegal s⟩
  · next hadmitted =>
    refine exec_repliesWith_portHStatus fun hi => ?_
    cases hs : s.issuer with
    | h => rfl
    | a => exact absurd ⟨hs, hi⟩ hadmitted

/-- Settles O13: each command's work replies with its status, and its one response carries that. -/
theorem statusFollowsTheErrorRules : Obligations.StatusFollowsTheErrorRules := by
  intro i s
  obtain ⟨r, hexec, hstatus, hkeeps, herror⟩ := exec_repliesWith i s
  refine ⟨r.settle, r.data, hexec, hstatus ▸ answeredWith_settle hkeeps, fun hne => ?_⟩
  rw [herror hne]
  exact ⟨rfl, sameCore_respond _ _ s⟩

/-! ### One response has one status and one DATA -/

theorem eq_of_code_eq {st st' : Status} (h : st.code = st'.code) : st = st' := by
  revert h
  cases st <;> cases st' <;> decide

/-- A response word tells its status and its DATA apart from all others (R72). -/
theorem eq_of_responseWord_eq {st st' : Status} {data data' : Word}
    (h : responseWord st data = responseWord st' data') : st = st' ∧ data = data' :=
  ⟨eq_of_code_eq (by rw [← responseWord_code st data, h, responseWord_code]),
    by rw [← responseWord_data st data, h, responseWord_data]⟩

theorem answeredWith_unique {s t : State} {st st' : Status} {data data' : Word} (h : answeredWith s t st data)
    (h' : answeredWith s t st' data') : st = st' ∧ data = data' := by
  obtain ⟨hresponses, -⟩ := h
  obtain ⟨hresponses', -⟩ := h'
  exact eq_of_responseWord_eq (List.singleton_inj.mp (List.append_cancel_left (hresponses.symm.trans hresponses')))

/-- Settles O14: the status that came is the one the error rules give, and with an error they allow no effect. -/
theorem errorsHaveNoEffect : Obligations.ErrorsHaveNoEffect := by
  intro i s t st data hexec hanswer hne
  obtain ⟨u, data', hexec', hanswer', herror⟩ := statusFollowsTheErrorRules i s
  cases hexec.symm.trans hexec'
  obtain ⟨rfl, rfl⟩ := answeredWith_unique hanswer hanswer'
  exact herror hne

end Sys2Proof.Machine
end
